-- ==== Sys2Proof/Word.lean ====
section
/-! DEFINITION. The widths of the spec: a byte and a u16 (R17), and the 32-bit length field of STUFF's response (R81).
Every value is unsigned; shifts and xors are those of BitVec, which truncate to the width as R18 says. -/

namespace Sys2Proof

/-- An unsigned 8-bit value, 0x00..0xFF (R17). -/
abbrev Byte := BitVec 8

/-- An unsigned 16-bit value, 0x0000..0xFFFF (R17). -/
abbrev Word16 := BitVec 16

/-- The unsigned 32-bit length field of STUFF's response (R81). -/
abbrev Word32 := BitVec 32

end Sys2Proof
end

