-- ==== Sys2Proof/Config.lean ====
section
/-! DEFINITION. The configuration values of one instance (R8 to R16): fixed when the instance is made, never changed by a
step (R173), and not state (10_state.md, head). The operations take a Config; the machine runs at `Machine.config`
(Machine/Params.lean), which holds the spec's values. CRC_SEED (R8), ESC_XOR (R13) and the protocol quantities (R15) are
not parameters and stand in Machine/Params.lean; N_LINKS (R16) is no parameter of one instance. -/

namespace Sys2Proof

/-- `CRC_FORM` (R9): the shift direction of the CRC register. -/
inductive CrcForm where
  | reflected
  | normal
deriving DecidableEq, Repr

/-- The parameters of one instance (R9 to R12, R14). -/
structure Config where
  /-- `CRC_FORM` (R9). -/
  crcForm : CrcForm
  /-- `CRC_POLY` (R10), in the bit order of `crcForm`. -/
  crcPoly : Word16
  /-- `LOCAL_ADDR` (R11): the source address the builder writes into byte 3 of every frame. -/
  localAddr : Byte
  /-- `RX_CAP` (R12): the capacity of the receive buffer in bytes. -/
  rxCap : Nat
  /-- `CHECK_DEST` (R14): whether the receive filter also tests the destination. -/
  checkDest : Bool
deriving DecidableEq, Repr

/-- The one bound the spec sets on a configuration: `RX_CAP` is at least 1 (R12). -/
def Config.wf (c : Config) : Bool := decide (1 ≤ c.rxCap)

/-- The value of `LOCAL_ADDR`, which R11 and D7 leave OPEN. Nothing constrains it (log 4; safe). -/
opaque Config.openLocalAddr : Byte

end Sys2Proof
end

