-- ==== Sys2Proof/Machine/Params.lean ====
section
/-! DEFINITION. The fixed protocol quantities (R8, R13, R15) and the configuration the machine runs at: the spec's values of
CRC_FORM, CRC_POLY, RX_CAP and CHECK_DEST (R9, R10, R12, R14), and the open LOCAL_ADDR (R11). -/

namespace Sys2Proof.Machine

/-- `CRC_SEED` (R8), loaded as it stands (R93). -/
def crcSeed : Word16 := 0xE300#16

/-- The spec's `CRC_POLY` for each `CRC_FORM` (R10). -/
def specPoly : CrcForm → Word16
  | .reflected => 0x8408#16
  | .normal => 0x1021#16

/-- `ESC_XOR` (R13; 90_conflicts.md C1). -/
def escXor : Byte := 0x20#8

/-- `HEADER_LEN` (R15). -/
def headerLen : Nat := 5

/-- `OVERHEAD` (R15): 5-byte header, 2-byte CRC, 1-byte terminator. -/
def overhead : Nat := 8

/-- `MAX_TOTAL` (R15). -/
def maxTotal : Nat := 255

/-- `MAX_PAYLOAD` (R15). -/
def maxPayload : Nat := maxTotal - overhead

/-- The configuration of the machine (R9 to R12, R14). -/
def config : Config where
  crcForm := .reflected
  crcPoly := specPoly .reflected
  localAddr := Config.openLocalAddr
  rxCap := 256
  checkDest := false

end Sys2Proof.Machine
end

