-- ==== Sys2Proof/Machine/Operands.lean ====
section
/-! DEFINITION. Operand and field forms: byte order of 16-bit and 32-bit fields (R52, R54, R78, R81), slices of sequences
(R19), the reserved bytes (R22, R64), the escape transform (R13) and the receive byte classes (R75). -/

namespace Sys2Proof.Machine

/-- `hi(c) = c[15:8]` (R18). -/
def hi (c : Word16) : Byte := c.extractLsb' 8 8

/-- `lo(c) = c[7:0]` (R18). -/
def lo (c : Word16) : Byte := c.extractLsb' 0 8

/-- `zext_16(b)` (R17). -/
def zext16 (b : Byte) : Word16 := b.setWidth 16

/-- A 16-bit field from its two bytes, high byte first (R52, R54, R78). -/
def be16 (h l : Byte) : Word16 := (zext16 h <<< 8) ||| zext16 l

/-- A 16-bit field as its two bytes, high byte first (R52). -/
def u16Bytes (c : Word16) : List Byte := [hi c, lo c]

/-- A length or index as a 16-bit field (R81). -/
def len16 (n : Nat) : List Byte := u16Bytes (BitVec.ofNat 16 n)

/-- A length as a 32-bit field, most significant byte first (R81). -/
def len32 (n : Nat) : List Byte :=
  let w : Word32 := BitVec.ofNat 32 n
  [w.extractLsb' 24 8, w.extractLsb' 16 8, w.extractLsb' 8 8, w.extractLsb' 0 8]

/-- `s[i..j)` (R19): the bytes of indices i to j-1, empty if j ≤ i. -/
def slice (s : List Byte) (i j : Nat) : List Byte := (s.take j).drop i

/-- `s[i]` (R19), used only where a guard shows i < |s|. -/
def byteAt (s : List Byte) (i : Nat) : Byte := s.getD i 0x00#8

/-- `ESC` (R64). -/
def escByte : Byte := 0xE0#8

/-- `ACK` (R64). -/
def ackByte : Byte := 0xE1#8

/-- `SOF` (R64). -/
def sofByte : Byte := 0xE2#8

/-- `EOF` (R64). -/
def eofByte : Byte := 0xE3#8

/-- The reserved-byte predicate (R22). -/
def isReserved (b : Byte) : Bool :=
  b == escByte || b == ackByte || b == sofByte || b == eofByte

/-- The escape transform, its own inverse (R13, R70, R102). -/
def escTransform (b : Byte) : Byte := b ^^^ escXor

/-- The receive byte classes (R75). -/
inductive RxClass where
  | sof
  | eof
  | esc
  | data
deriving DecidableEq, Repr

/-- The class of a received byte, by its value alone (R75, R76). -/
def rxClass (b : Byte) : RxClass :=
  if b = sofByte then .sof
  else if b = eofByte then .eof
  else if b = escByte then .esc
  else .data

end Sys2Proof.Machine
end

