-- ==== Sys2Proof/Machine/State.lean ====
section
/-! DEFINITION. The state of one instance (R24): the receive assembler's, the link controller's and the two transport
streams, and two fields of the model's own, `agenda` and `responses` (log 1, log 2). Plain data throughout. -/

namespace Sys2Proof.Machine

/-- `WSTATE` (R32). -/
inductive WState where
  /-- NONE: no wait armed and no result held. -/
  | idle
  /-- WAITING: a `receiveAndValidate` is in progress. -/
  | waiting
  /-- DONE: the wait has ended and RES_STATUS holds its outcome. -/
  | done
deriving DecidableEq, Repr

/-- The status codes by name (R82). -/
inductive Status where
  | ok
  | allocationFailure
  | invalidStart
  | lengthMismatch
  | checksumMismatch
  | missingTerminator
  | truncatedEscape
  | unrecognizedEscape
  | payloadTooLarge
  | timeout
  | pending
  | noWait
  | illegalCommand
deriving DecidableEq, Repr

/-- A Message (R41). -/
structure Message where
  dest : Byte
  src : Byte
  cmd : Byte
  len : Byte
  payload : List Byte
deriving DecidableEq, Repr

/-- What happens next, one entry per step (R23, R59, R85; log 1). -/
inductive Event where
  /-- The host issues the command string opcode :: operands, which so has at least one byte (R77). -/
  | host (opcode : Byte) (operands : List Byte)
  /-- The receive agent's turn (RXSTEP; R117). -/
  | receive
  /-- The reset event (R169). -/
  | reset
  /-- The environment appends bytes to RXQ (FEED; R37). -/
  | feed (bytes : List Byte)
deriving DecidableEq, Repr

/-- The receive buffer as the list of the bytes written so far, addresses strictly rising (`Memory.wf`). -/
abbrev Memory := List Host.Cell

/-- The state (R24), and the model's own two fields at its end. -/
structure State where
  /-- `RXBUF` (R28). -/
  rxbuf : Memory
  /-- `RXIDX` (R29). -/
  rxidx : Nat
  /-- `ESCP` (R30). -/
  escp : Bool
  /-- `ESCERR` (R31). -/
  escerr : Bool
  /-- `WSTATE` (R32). -/
  wstate : WState
  /-- `EXP_SRC` (R33). -/
  expSrc : Byte
  /-- `EXP_CMD` (R34). -/
  expCmd : Byte
  /-- `RES_STATUS` (R35), by name; its byte is `Status.code` (log 9). -/
  resStatus : Status
  /-- `RES_MSG` (R35, R41). -/
  resMsg : Option Message
  /-- `RXQ` (R37), oldest first. -/
  rxq : List Byte
  /-- `TXLOG` (R36), oldest first. -/
  txlog : List Byte
  /-- The responses given so far (R42, R81), oldest first: the model's own (log 2). -/
  responses : List (List Byte)
  /-- What happens next, oldest first: the model's own (log 1). -/
  agenda : List Event
deriving DecidableEq, Repr

/-- Why a step stops. Neither is reachable from reset (R26, R44, R62); Safety.lean names the invariant. -/
inductive Fault where
  /-- RX_EOF's terminator or RX_DATA's byte would go to an index at or above RX_CAP, which is no byte of RXBUF (R49).
  Raised by `rxbufWrite`. Safe: the model stops. -/
  | rxbufOutOfRange (index : Nat)
  /-- The frame-completion step reads a byte of RXBUF that nothing has written (R44). Raised by `rxbufBody`.
  Safe: the model stops. -/
  | rxbufUnwritten (index : Nat)
deriving DecidableEq, Repr

/-- Why an instruction has no meaning. -/
inductive Refusal where
  /-- The row has no meaning yet. Raised by exec's refused arms, of which there is none. Safe: the model stops. -/
  | notModelled (mnemonic : String)
deriving DecidableEq, Repr

/-- The state an instance starts in: R169's values, RXQ and TXLOG empty (R170), no byte of RXBUF written (R28), and
nothing on the agenda (log 1, log 3). -/
def State.reset : State where
  rxbuf := []
  rxidx := 0
  escp := false
  escerr := false
  wstate := .idle
  expSrc := 0x00#8
  expCmd := 0x00#8
  resStatus := .ok
  resMsg := none
  rxq := []
  txlog := []
  responses := []
  agenda := []

end Sys2Proof.Machine
end

