-- ==== Sys2Proof/Machine/Flags.lean ====
section
/-! DEFINITION. Every flag the spec gives: ESCP and ESCERR after each receive byte class (R112 to R115, R119), and the status
codes as bytes (R82). There is no condition-code register (R43). -/

namespace Sys2Proof.Machine

/-- ESCP after a byte of each class: only ESC leaves it set (R112 to R115). -/
def escpAfter : RxClass → Bool
  | .sof => false
  | .eof => false
  | .esc => true
  | .data => false

/-- ESCERR after an ESC: set where an escape was pending (R114). -/
def escerrAfterEsc (escp escerr : Bool) : Bool := escerr || escp

/-- The value RX_DATA stores: the byte, transformed where an escape is pending (R115). -/
def dataValue (escp : Bool) (b : Byte) : Byte := if escp then escTransform b else b

/-- ESCERR after a data byte: set where a transformed value is not reserved (R115). -/
def escerrAfterData (escp escerr : Bool) (b : Byte) : Bool :=
  escerr || (escp && !isReserved (escTransform b))

/-- The status an EOF gives the frame it completes (R113). -/
def eofStatus (escp escerr : Bool) : Status :=
  if escerr then .unrecognizedEscape
  else if escp then .truncatedEscape
  else .ok

/-- The byte of each status (R82). -/
def Status.code : Status → Byte
  | .ok => 0x00#8
  | .allocationFailure => 0x01#8
  | .invalidStart => 0x02#8
  | .lengthMismatch => 0x03#8
  | .checksumMismatch => 0x04#8
  | .missingTerminator => 0x05#8
  | .truncatedEscape => 0x06#8
  | .unrecognizedEscape => 0x07#8
  | .payloadTooLarge => 0x08#8
  | .timeout => 0x09#8
  | .pending => 0x0A#8
  | .noWait => 0x0B#8
  | .illegalCommand => 0x0C#8

/-- The status a code stands for; 0x0D..0xFF are reserved (R82, R84). -/
def Status.ofCode (b : Byte) : Option Status :=
  if b = 0x00#8 then some .ok
  else if b = 0x01#8 then some .allocationFailure
  else if b = 0x02#8 then some .invalidStart
  else if b = 0x03#8 then some .lengthMismatch
  else if b = 0x04#8 then some .checksumMismatch
  else if b = 0x05#8 then some .missingTerminator
  else if b = 0x06#8 then some .truncatedEscape
  else if b = 0x07#8 then some .unrecognizedEscape
  else if b = 0x08#8 then some .payloadTooLarge
  else if b = 0x09#8 then some .timeout
  else if b = 0x0A#8 then some .pending
  else if b = 0x0B#8 then some .noWait
  else if b = 0x0C#8 then some .illegalCommand
  else none

/-- The encoding of WSTATE (R32). -/
def WState.code : WState → Nat
  | .idle => 0
  | .waiting => 1
  | .done => 2

/-- The codes RES_STATUS may hold in DONE (R35). -/
def Status.legalResult : Status → Bool
  | .ok => true
  | .allocationFailure => false
  | .invalidStart => true
  | .lengthMismatch => true
  | .checksumMismatch => true
  | .missingTerminator => true
  | .truncatedEscape => true
  | .unrecognizedEscape => true
  | .payloadTooLarge => false
  | .timeout => true
  | .pending => false
  | .noWait => false
  | .illegalCommand => false

end Sys2Proof.Machine
end

