-- ==== Sys2Proof/Machine/Ops.lean ====
section
/-! DEFINITION. The operations the meanings share: the receive buffer (R20, R28, R49, R116), the transport streams (R36,
R37), the response of a command (R21, R42, R81), the end of a wait (R145) and the reset event (R169). A failing command is
`respond` with its status and nothing else (R21, R150, R153): the GFCE has no trap to take and none to return from. -/

namespace Sys2Proof.Machine

/-! ### The receive buffer -/

/-- The byte at an index; none where nothing has written it (R28, R44; log 7). -/
def Memory.read : Memory → Nat → Option Byte
  | [], _ => none
  | (k, v) :: m, a => if k = a then some v else Memory.read m a

/-- Writes one byte, keeping the indices strictly rising. -/
def Memory.write : Memory → Nat → Byte → Memory
  | [], a, v => [(a, v)]
  | (k, w) :: m, a, v =>
    if a < k then (a, v) :: (k, w) :: m
    else if a = k then (a, v) :: m
    else (k, w) :: Memory.write m a v

/-- The canonical form: indices strictly rising. An unlisted index has no value, so no entry equals one. -/
def Memory.wf : Memory → Bool
  | [] => true
  | [_] => true
  | x :: y :: m => decide (x.1 < y.1) && Memory.wf (y :: m)

/-- `RXBUF[i] <- v` (R20): only indices below RX_CAP exist (R49; log 8). -/
def rxbufWrite (cfg : Config) (i : Nat) (v : Byte) (s : State) : Except Fault State :=
  if i < cfg.rxCap then .ok { s with rxbuf := Memory.write s.rxbuf i v } else .error (.rxbufOutOfRange i)

/-- The n bytes of RXBUF from index i on; a byte nothing has written is a fault (log 7). -/
def rxbufFrom (m : Memory) : Nat → Nat → Except Fault (List Byte)
  | _, 0 => .ok []
  | i, n + 1 =>
    match Memory.read m i, rxbufFrom m (i + 1) n with
    | none, _ => .error (.rxbufUnwritten i)
    | some _, .error f => .error f
    | some v, .ok vs => .ok (v :: vs)

/-- `RXBUF[0 .. L)`, read as one snapshot (R56, R145). -/
def rxbufBody (m : Memory) (L : Nat) : Except Fault (List Byte) := rxbufFrom m 0 L

/-- `store(v)` (R116): a byte that does not fit is dropped and RXIDX stays. -/
def store (cfg : Config) (v : Byte) (s : State) : State :=
  if s.rxidx + 1 < cfg.rxCap then
    { s with rxbuf := Memory.write s.rxbuf s.rxidx v, rxidx := s.rxidx + 1 }
  else s

/-! ### The transport streams -/

/-- `emit_tx(bs)` (R20, R36). -/
def emitTx (bs : List Byte) (s : State) : State := { s with txlog := s.txlog ++ bs }

/-- `take_rx()` (R20, R37): none where RXQ is empty. -/
def takeRx (s : State) : Option (Byte × State) :=
  match s.rxq with
  | [] => none
  | b :: q => some (b, { s with rxq := q })

/-- The environment appends bytes to RXQ (R37). -/
def feedRx (bs : List Byte) (s : State) : State := { s with rxq := s.rxq ++ bs }

/-- Whether the receive agent has a step (R117, R118). -/
def receiveEnabled (s : State) : Bool := !s.rxq.isEmpty && decide (s.wstate = .waiting)

/-! ### Responses -/

/-- A response: its status and the bytes of its fields (R42). -/
structure Response where
  status : Status
  fields : List Byte
deriving DecidableEq, Repr

/-- The response as its byte string, status first (R81). -/
def Response.bytes (r : Response) : List Byte := r.status.code :: r.fields

/-- A failure's response: its status and no field (R81). -/
def failResponse (st : Status) : Response := { status := st, fields := [] }

/-- The response fields of a Message (R81: PARSE and RECV_POLL). -/
def messageFields (m : Message) : List Byte := [m.dest, m.src, m.cmd, m.len] ++ m.payload

/-- Gives the response of the command (R42): nothing else is written. -/
def respond (r : Response) (s : State) : State := { s with responses := s.responses ++ [r.bytes] }

/-! ### The wait and reset -/

/-- `end_wait(st, m)` (R145), and RECV_ABORT's writes (R143). -/
def endWait (st : Status) (m : Option Message) (s : State) : State :=
  { s with wstate := .done, resStatus := st, resMsg := m }

/-- The writes of RECV_ARM (R142). -/
def armWait (src cmd : Byte) (s : State) : State :=
  { s with expSrc := src, expCmd := cmd, resStatus := .ok, resMsg := none, wstate := .waiting }

/-- The reset event (R169): RXBUF, RXQ and TXLOG are not written. -/
def resetEvent (s : State) : State :=
  { s with
    rxidx := 0
    escp := false
    escerr := false
    wstate := .idle
    expSrc := 0x00#8
    expCmd := 0x00#8
    resStatus := .ok
    resMsg := none }

end Sys2Proof.Machine
end

