-- ==== Sys2Proof/Machine/Crc.lean ====
section
/-! DEFINITION. The CRC-16 unit (40_crc16.md): the bit-level update (R89), the table and the table-driven update (R90, R91),
the block function (R92), and CRC_UPDATE and CRC_COMPUTE (R95, R96). -/

namespace Sys2Proof.Machine

/-- One shift of the CRC register (R89). -/
def crcShift (cfg : Config) (c : Word16) : Word16 :=
  match cfg.crcForm with
  | .reflected => if c.getLsbD 0 then (c >>> 1) ^^^ cfg.crcPoly else c >>> 1
  | .normal => if c.getLsbD 15 then (c <<< 1) ^^^ cfg.crcPoly else c <<< 1

/-- n shifts. -/
def crcShifts (cfg : Config) : Nat → Word16 → Word16
  | 0, c => c
  | n + 1, c => crcShifts cfg n (crcShift cfg c)

/-- Where the byte enters the register (R89): the low half (Reflected) or the high half (Normal). -/
def crcEnter (cfg : Config) (b : Byte) : Word16 :=
  match cfg.crcForm with
  | .reflected => zext16 b
  | .normal => zext16 b <<< 8

/-- `crc_update(c, b)`, the single-byte update (R89). -/
def crcUpdate (cfg : Config) (c : Word16) (b : Byte) : Word16 := crcShifts cfg 8 (c ^^^ crcEnter cfg b)

/-- Entry i of the table (R90). -/
def crcTable (cfg : Config) (i : Byte) : Word16 := crcUpdate cfg 0x0000#16 i

/-- The table-driven update (R91). -/
def crcTableUpdate (cfg : Config) (c : Word16) (b : Byte) : Word16 :=
  match cfg.crcForm with
  | .reflected => (c >>> 8) ^^^ crcTable cfg (lo (c ^^^ zext16 b))
  | .normal => (c <<< 8) ^^^ crcTable cfg (lo ((c >>> 8) ^^^ zext16 b))

/-- `crc16(s)` (R92, R93): the fold from the seed, index 0 first (R53), with no output transform. -/
def crc16 (cfg : Config) (s : List Byte) : Word16 := s.foldl (crcUpdate cfg) crcSeed

/-- A CRC response (R81). -/
def crcResponse (c : Word16) : Response := { status := .ok, fields := u16Bytes c }

/-- CRC_UPDATE (R95). -/
def execCrcUpdate (crcIn : Word16) (byte : Byte) (s : State) : Host.Outcome State Fault Refusal :=
  .next (respond (crcResponse (crcUpdate config crcIn byte)) s)

/-- CRC_COMPUTE (R96). -/
def execCrcCompute (data : List Byte) (s : State) : Host.Outcome State Fault Refusal :=
  .next (respond (crcResponse (crc16 config data)) s)

end Sys2Proof.Machine
end

