-- ==== Sys2Proof/Machine/FrameCodec.lean ====
section
/-! DEFINITION. The frame builder and parser (43_frame_codec.md): BUILD and PARSE (R127 to R131). -/

namespace Sys2Proof.Machine

/-- The CRC'd range of a frame: the 5-byte header and the payload (R66, R69, R127). -/
def frameHead (cfg : Config) (dest cmd : Byte) (payload : List Byte) : List Byte :=
  [sofByte, dest, BitVec.ofNat 8 (payload.length + overhead), cfg.localAddr, cmd] ++ payload

/-- `build(dest, cmd, P)` (R127): the frame, or PayloadTooLarge. -/
def build (cfg : Config) (dest cmd : Byte) (payload : List Byte) : Except Status (List Byte) :=
  if maxTotal < payload.length + overhead then .error .payloadTooLarge
  else
    .ok (frameHead cfg dest cmd payload ++ u16Bytes (crc16 cfg (frameHead cfg dest cmd payload)) ++ [eofByte])

/-- `parse(F)` (R129, R130): the checks in the source's order, each read guarded by the checks before it. -/
def parse (cfg : Config) (f : List Byte) : Except Status Message :=
  if f.length < 1 ∨ byteAt f 0 ≠ sofByte then .error .invalidStart
  else if f.length < 3 ∨ (byteAt f 2).toNat ≠ f.length then .error .lengthMismatch
  else if crc16 cfg (slice f 0 (f.length - 3)) ≠ be16 (byteAt f (f.length - 3)) (byteAt f (f.length - 2)) then
    .error .checksumMismatch
  else if byteAt f (f.length - 1) ≠ eofByte then .error .missingTerminator
  else if (byteAt f 2).toNat < overhead then .error .lengthMismatch
  else .ok { dest := byteAt f 1, src := byteAt f 3, cmd := byteAt f 4, len := byteAt f 2,
             payload := slice f headerLen (f.length - 3) }

/-- BUILD's response (R81). -/
def buildResponse : Except Status (List Byte) → Response
  | .ok f => { status := .ok, fields := len16 f.length ++ f }
  | .error st => failResponse st

/-- PARSE's response (R81). -/
def parseResponse : Except Status Message → Response
  | .ok m => { status := .ok, fields := messageFields m }
  | .error st => failResponse st

/-- BUILD (R128). -/
def execBuild (dest cmd : Byte) (payload : List Byte) (s : State) : Host.Outcome State Fault Refusal :=
  .next (respond (buildResponse (build config dest cmd payload)) s)

/-- PARSE (R131). -/
def execParse (frame : List Byte) (s : State) : Host.Outcome State Fault Refusal :=
  .next (respond (parseResponse (parse config frame)) s)

end Sys2Proof.Machine
end

