-- ==== Sys2Proof/Machine/Stuffing.lean ====
section
/-! DEFINITION. The byte stuffer and destuffer over whole sequences (41_stuffing.md): STUFF and DESTUFF (R100 to R105). -/

namespace Sys2Proof.Machine

/-- The bytes from index 1 on, the last copied and each reserved one before it escaped; and how many were (R100). -/
def stuffTail : List Byte → List Byte × Nat
  | [] => ([], 0)
  | [b] => ([b], 0)
  | b :: c :: rest =>
    let (w, k) := stuffTail (c :: rest)
    if isReserved b then (escByte :: escTransform b :: w, k + 1) else (b :: w, k)

/-- `stuff(U) = (W, k)` (R100): the first byte is copied. -/
def stuff : List Byte → List Byte × Nat
  | [] => ([], 0)
  | b :: rest =>
    let (w, k) := stuffTail rest
    (b :: w, k)

/-- A bad escape, with the index of the offending ESC (R102). -/
inductive DestuffError where
  | truncated (index : Nat)
  | unrecognized (index : Nat)
deriving DecidableEq, Repr

/-- The bytes from index i on, where i is at least 1 (R102): an ESC needs an interior byte after it, and the last byte is
no ESC. -/
def destuffTail (i : Nat) : List Byte → Except DestuffError (List Byte)
  | [] => .ok []
  | [b] => if b = escByte then .error (.truncated i) else .ok [b]
  | [b, c] =>
    if b = escByte then .error (.truncated i)
    else
      match destuffTail (i + 1) [c] with
      | .ok u => .ok (b :: u)
      | .error e => .error e
  | b :: c :: d :: rest =>
    if b = escByte then
      if isReserved (escTransform c) then
        match destuffTail (i + 2) (d :: rest) with
        | .ok u => .ok (escTransform c :: u)
        | .error e => .error e
      else .error (.unrecognized i)
    else
      match destuffTail (i + 1) (c :: d :: rest) with
      | .ok u => .ok (b :: u)
      | .error e => .error e

/-- `destuff(W)` (R102): the first byte is copied whatever it is. -/
def destuff : List Byte → Except DestuffError (List Byte)
  | [] => .ok []
  | b :: rest =>
    match destuffTail 1 rest with
    | .ok u => .ok (b :: u)
    | .error e => .error e

/-- STUFF's response (R81): inserted (u16), L (u32), W. -/
def stuffResponse (r : List Byte × Nat) : Response :=
  { status := .ok, fields := len16 r.2 ++ len32 r.1.length ++ r.1 }

/-- DESTUFF's response (R81): L (u16) and U, or the index (u16) of the offending ESC. -/
def destuffResponse : Except DestuffError (List Byte) → Response
  | .ok u => { status := .ok, fields := len16 u.length ++ u }
  | .error (.truncated j) => { status := .truncatedEscape, fields := len16 j }
  | .error (.unrecognized j) => { status := .unrecognizedEscape, fields := len16 j }

/-- STUFF (R104). -/
def execStuff (data : List Byte) (s : State) : Host.Outcome State Fault Refusal :=
  .next (respond (stuffResponse (stuff data)) s)

/-- DESTUFF (R105). -/
def execDestuff (data : List Byte) (s : State) : Host.Outcome State Fault Refusal :=
  .next (respond (destuffResponse (destuff data)) s)

end Sys2Proof.Machine
end

