-- ==== Sys2Proof/Machine/Link.lean ====
section
/-! DEFINITION. The link controller (44_link_commands.md): TRANSMIT, RECV_ARM, RECV_ABORT, RECV_POLL (R140 to R144), the
frame-completion procedure and its filter (R133, R145, R146), and illegal commands (R149). -/

namespace Sys2Proof.Machine

/-- TRANSMIT's steps (R140): build, stuff, emit with the trailing ACK; PayloadTooLarge before any I/O. -/
def transmitFrame (cfg : Config) (dest cmd : Byte) (payload : List Byte) (s : State) : State :=
  match build cfg dest cmd payload with
  | .error st => respond (failResponse st) s
  | .ok f =>
    let (w, k) := stuff f
    respond { status := .ok, fields := len16 k ++ len16 w.length } (emitTx (w ++ [ackByte]) s)

/-- `matches(M)` (R146). -/
def matchesWait (cfg : Config) (m : Message) (s : State) : Bool :=
  decide (m.src = s.expSrc) && decide (m.cmd = s.expCmd) && (!cfg.checkDest || decide (m.dest = cfg.localAddr))

/-- The frame the parser sees for a received body (R133). -/
def rebuildFrame (body : List Byte) : List Byte := sofByte :: body ++ [eofByte]

/-- What a validated frame does to the wait (R145). -/
def completeParsed (cfg : Config) (s : State) : Except Status Message → State
  | .error st => endWait st none s
  | .ok m => if matchesWait cfg m s then endWait .ok (some m) s else s

/-- `frame_complete(L, st)` (R145). -/
def frameComplete (cfg : Config) (L : Nat) (st : Status) (s : State) : Except Fault State :=
  if st ≠ .ok then .ok (endWait st none s)
  else
    match rxbufBody s.rxbuf L with
    | .error f => .error f
    | .ok body => .ok (completeParsed cfg s (parse cfg (rebuildFrame body)))

/-- RECV_POLL's response (R144). -/
def pollResponse (s : State) : Response :=
  match s.wstate with
  | .idle => failResponse .noWait
  | .waiting => failResponse .pending
  | .done =>
    match s.resStatus, s.resMsg with
    | .ok, some m => { status := .ok, fields := messageFields m }
    | st, _ => failResponse st

/-- TRANSMIT (R140). -/
def execTransmit (dest cmd : Byte) (payload : List Byte) (s : State) : Host.Outcome State Fault Refusal :=
  .next (transmitFrame config dest cmd payload s)

/-- RECV_ARM (R142). -/
def execRecvArm (src cmd : Byte) (s : State) : Host.Outcome State Fault Refusal :=
  .next (respond { status := .ok, fields := [] } (armWait src cmd s))

/-- RECV_ABORT (R143). -/
def execRecvAbort (s : State) : Host.Outcome State Fault Refusal :=
  if s.wstate = .waiting then .next (respond { status := .ok, fields := [] } (endWait .timeout none s))
  else .next (respond (failResponse .noWait) s)

/-- RECV_POLL (R144). -/
def execRecvPoll (s : State) : Host.Outcome State Fault Refusal := .next (respond (pollResponse s) s)

/-- An illegal command string (R83, R149): its response, and nothing else. -/
def illegalCommand (s : State) : State := respond (failResponse .illegalCommand) s

end Sys2Proof.Machine
end

