-- ==== Sys2Proof/Machine/Assembler.lean ====
section
/-! DEFINITION. The receive assembler (42_receive_assembler.md): RX_SOF, RX_EOF, RX_ESC, RX_DATA (R112 to R116), each
followed in the same atomic step by frame completion where it signals one (R117). The byte has been taken from RXQ by the
step (log 11). -/

namespace Sys2Proof.Machine

/-- What the assembler signals (R111). -/
inductive AsmEvent where
  | noEvent
  | frameComplete (L : Nat) (st : Status)
deriving DecidableEq, Repr

/-- RX_SOF on the assembler (R112). -/
def asmSof (s : State) : State := { s with rxidx := 0, escp := escpAfter .sof, escerr := false }

/-- RX_EOF on the assembler (R113): terminates the body with 0x00 and signals it. -/
def asmEof (cfg : Config) (s : State) : Except Fault (State × AsmEvent) :=
  match rxbufWrite cfg s.rxidx 0x00#8 s with
  | .error f => .error f
  | .ok t =>
    .ok ({ t with rxidx := 0, escp := escpAfter .eof, escerr := false },
      .frameComplete s.rxidx (eofStatus s.escp s.escerr))

/-- RX_ESC on the assembler (R114). -/
def asmEsc (s : State) : State :=
  { s with escp := escpAfter .esc, escerr := escerrAfterEsc s.escp s.escerr }

/-- RX_DATA on the assembler (R115). -/
def asmData (cfg : Config) (b : Byte) (s : State) : State :=
  store cfg (dataValue s.escp b)
    { s with escp := escpAfter .data, escerr := escerrAfterData s.escp s.escerr b }

/-- `asm_step(b)` (R111): the dispatch on the class of b. -/
def asmStep (cfg : Config) (b : Byte) (s : State) : Except Fault (State × AsmEvent) :=
  match rxClass b with
  | .sof => .ok (asmSof s, .noEvent)
  | .eof => asmEof cfg s
  | .esc => .ok (asmEsc s, .noEvent)
  | .data => .ok (asmData cfg b s, .noEvent)

/-- Runs frame completion in the step that signals it (R117). -/
def consumeEvent (cfg : Config) : Except Fault (State × AsmEvent) → Host.Outcome State Fault Refusal
  | .error f => .fault f
  | .ok (s, .noEvent) => .next s
  | .ok (s, .frameComplete L st) =>
    match frameComplete cfg L st s with
    | .error f => .fault f
    | .ok t => .next t

/-- RX_SOF (R112). -/
def execRxSof (s : State) : Host.Outcome State Fault Refusal := .next (asmSof s)

/-- RX_EOF (R113), with frame completion (R145). -/
def execRxEof (s : State) : Host.Outcome State Fault Refusal := consumeEvent config (asmEof config s)

/-- RX_ESC (R114). -/
def execRxEsc (s : State) : Host.Outcome State Fault Refusal := .next (asmEsc s)

/-- RX_DATA (R115, R116). -/
def execRxData (b : Byte) (s : State) : Host.Outcome State Fault Refusal := .next (asmData config b s)

end Sys2Proof.Machine
end

