-- ==== Sys2Proof/Syntax.lean ====
section
/-! DEFINITION. The instructions: one constructor per row of spec/opcode_table.json. The first ten are the host commands
of R80, the last four the receive byte classes of R75. -/

namespace Sys2Proof

/-- The 14 rows of the opcode table, with their operands. -/
inductive Instr where
  /-- `CRC_UPDATE crc_in, byte` (R95). -/
  | crcUpdate (crcIn : Word16) (byte : Byte)
  /-- `CRC_COMPUTE [data]` (R96). -/
  | crcCompute (data : List Byte)
  /-- `STUFF [data]` (R104). -/
  | stuff (data : List Byte)
  /-- `DESTUFF [data]` (R105). -/
  | destuff (data : List Byte)
  /-- `BUILD dest, cmd, [payload]` (R128). -/
  | build (dest cmd : Byte) (payload : List Byte)
  /-- `PARSE [frame]` (R131). -/
  | parse (frame : List Byte)
  /-- `TRANSMIT dest, cmd, [payload]` (R140). -/
  | transmit (dest cmd : Byte) (payload : List Byte)
  /-- `RECV_ARM src, cmd` (R142). -/
  | recvArm (src cmd : Byte)
  /-- `RECV_ABORT` (R143). -/
  | recvAbort
  /-- `RECV_POLL` (R144). -/
  | recvPoll
  /-- The receive byte 0xE2 (R112). -/
  | rxSof
  /-- The receive byte 0xE3 (R113). -/
  | rxEof
  /-- The receive byte 0xE0 (R114). -/
  | rxEsc
  /-- Any other receive byte, ACK 0xE1 among them (R115). -/
  | rxData (b : Byte)
deriving DecidableEq, Repr

/-- The mnemonic of the instruction's row in spec/opcode_table.json. -/
def Instr.mnemonic : Instr → String
  | .crcUpdate _ _ => "CRC_UPDATE"
  | .crcCompute _ => "CRC_COMPUTE"
  | .stuff _ => "STUFF"
  | .destuff _ => "DESTUFF"
  | .build _ _ _ => "BUILD"
  | .parse _ => "PARSE"
  | .transmit _ _ _ => "TRANSMIT"
  | .recvArm _ _ => "RECV_ARM"
  | .recvAbort => "RECV_ABORT"
  | .recvPoll => "RECV_POLL"
  | .rxSof => "RX_SOF"
  | .rxEof => "RX_EOF"
  | .rxEsc => "RX_ESC"
  | .rxData _ => "RX_DATA"

/-- Whether the instruction is a host command (R80) rather than a receive byte (R75). -/
def Instr.isCommand : Instr → Bool
  | .crcUpdate _ _ => true
  | .crcCompute _ => true
  | .stuff _ => true
  | .destuff _ => true
  | .build _ _ _ => true
  | .parse _ => true
  | .transmit _ _ _ => true
  | .recvArm _ _ => true
  | .recvAbort => true
  | .recvPoll => true
  | .rxSof => false
  | .rxEof => false
  | .rxEsc => false
  | .rxData _ => false

end Sys2Proof
end

