-- ==== Sys2Proof/Machine/Dispatch.lean ====
section
/-! DEFINITION. One arm per constructor of Instr, each one direct call of its meaning. -/

namespace Sys2Proof.Machine

/-- The meaning of each row of the opcode table. -/
def exec (i : Instr) (s : State) : Host.Outcome State Fault Refusal :=
  match i with
  | .crcUpdate crcIn byte => Sys2Proof.Machine.execCrcUpdate crcIn byte s
  | .crcCompute data => Sys2Proof.Machine.execCrcCompute data s
  | .stuff data => Sys2Proof.Machine.execStuff data s
  | .destuff data => Sys2Proof.Machine.execDestuff data s
  | .build dest cmd payload => Sys2Proof.Machine.execBuild dest cmd payload s
  | .parse frame => Sys2Proof.Machine.execParse frame s
  | .transmit dest cmd payload => Sys2Proof.Machine.execTransmit dest cmd payload s
  | .recvArm src cmd => Sys2Proof.Machine.execRecvArm src cmd s
  | .recvAbort => Sys2Proof.Machine.execRecvAbort s
  | .recvPoll => Sys2Proof.Machine.execRecvPoll s
  | .rxSof => Sys2Proof.Machine.execRxSof s
  | .rxEof => Sys2Proof.Machine.execRxEof s
  | .rxEsc => Sys2Proof.Machine.execRxEsc s
  | .rxData b => Sys2Proof.Machine.execRxData b s

end Sys2Proof.Machine
end

