-- ==== Sys2Proof/WellFormed.lean ====
section
/-! DEFINITION. Which instructions have an encoding: a sequence operand has at most 65535 bytes (R77), and an RX_DATA
instruction stands for a byte of that class (R75). Any byte value in an operand field is legal (R83). -/

namespace Sys2Proof

/-- The longest sequence operand (R77, D31). -/
def maxOperand : Nat := 65535

/-- A sequence operand fits its 16-bit length field (R77). -/
def seqFits (s : List Byte) : Bool := decide (s.length ≤ maxOperand)

/-- The instructions that have an encoding (R75, R77, R83). -/
def Instr.wf : Instr → Bool
  | .crcUpdate _ _ => true
  | .crcCompute d => seqFits d
  | .stuff d => seqFits d
  | .destuff d => seqFits d
  | .build _ _ p => seqFits p
  | .parse f => seqFits f
  | .transmit _ _ p => seqFits p
  | .recvArm _ _ => true
  | .recvAbort => true
  | .recvPoll => true
  | .rxSof => true
  | .rxEof => true
  | .rxEsc => true
  | .rxData b => decide (Machine.rxClass b = .data)

end Sys2Proof
end

