-- ==== Sys2Proof/Decode.lean ====
section
/-! DEFINITION. The decoder of both encoding spaces (command strings: R77 to R80, R83, R87; received bytes: R75, R76), and
after it the encoder written from the same tables. A command string decodes by its first byte alone (R80), and only at
exactly the length its format implies (R83). -/

namespace Sys2Proof

open Machine (be16 u16Bytes len16 rxClass sofByte eofByte escByte)

/-- What a step decodes: a whole command string of the host (R77), or one received byte (R117). -/
inductive Input where
  | command (c : List Byte)
  | received (b : Byte)
deriving DecidableEq, Repr

/-- Why a command string is illegal (R83). -/
inductive DecodeError where
  /-- no bytes at all: a string has at least one (R77) -/
  | emptyString
  /-- C[0] is 0x00 or 0x0B..0xFF -/
  | unknownOpcode
  /-- the length is not the one the format and its length field imply -/
  | wrongLength
deriving DecidableEq, Repr

/-- The command formats (R79). -/
inductive Format where
  | n
  | a2
  | cu
  | s
  | dcs
deriving DecidableEq, Repr

/-- The opcode map's format column (R80); none for 0x00 and 0x0B..0xFF (R83). -/
def formatOf (op : Byte) : Option Format :=
  if op = 0x01#8 then some .cu
  else if op = 0x02#8 then some .s
  else if op = 0x03#8 then some .s
  else if op = 0x04#8 then some .s
  else if op = 0x05#8 then some .dcs
  else if op = 0x06#8 then some .s
  else if op = 0x07#8 then some .dcs
  else if op = 0x08#8 then some .a2
  else if op = 0x09#8 then some .n
  else if op = 0x0A#8 then some .n
  else none

/-- The length of a command from C[0] and, for S and DCS, its length field (R87); none where C[0] is no opcode or C is
too short to hold the length field. -/
def commandLength (c : List Byte) : Option Nat :=
  match c with
  | [] => none
  | op :: rest =>
    match formatOf op with
    | none => none
    | some .n => some 1
    | some .a2 => some 3
    | some .cu => some 4
    | some .s =>
      match rest with
      | h :: l :: _ => some (3 + (be16 h l).toNat)
      | _ => none
    | some .dcs =>
      match rest with
      | _ :: _ :: h :: l :: _ => some (5 + (be16 h l).toNat)
      | _ => none

/-- Format N (R79): no operand. -/
def operandsN (i : Instr) : List Byte → Except DecodeError Instr
  | [] => .ok i
  | _ => .error .wrongLength

/-- Format A2 (R79): two bytes. -/
def operandsA2 (k : Byte → Byte → Instr) : List Byte → Except DecodeError Instr
  | [a, b] => .ok (k a b)
  | _ => .error .wrongLength

/-- Format CU (R79): a big-endian u16 and a byte. -/
def operandsCU (k : Word16 → Byte → Instr) : List Byte → Except DecodeError Instr
  | [h, l, b] => .ok (k (be16 h l) b)
  | _ => .error .wrongLength

/-- Format S (R79): a big-endian length and exactly that many bytes. -/
def operandsS (k : List Byte → Instr) : List Byte → Except DecodeError Instr
  | h :: l :: data => if data.length = (be16 h l).toNat then .ok (k data) else .error .wrongLength
  | _ => .error .wrongLength

/-- Format DCS (R79): dest, cmd, a big-endian length and exactly that many bytes. -/
def operandsDCS (k : Byte → Byte → List Byte → Instr) : List Byte → Except DecodeError Instr
  | d :: c :: h :: l :: payload =>
    if payload.length = (be16 h l).toNat then .ok (k d c payload) else .error .wrongLength
  | _ => .error .wrongLength

/-- A host command string (R80, R83). -/
def decodeCommand : List Byte → Except DecodeError Instr
  | [] => .error .emptyString
  | op :: rest =>
    if op = 0x01#8 then operandsCU .crcUpdate rest
    else if op = 0x02#8 then operandsS .crcCompute rest
    else if op = 0x03#8 then operandsS .stuff rest
    else if op = 0x04#8 then operandsS .destuff rest
    else if op = 0x05#8 then operandsDCS .build rest
    else if op = 0x06#8 then operandsS .parse rest
    else if op = 0x07#8 then operandsDCS .transmit rest
    else if op = 0x08#8 then operandsA2 .recvArm rest
    else if op = 0x09#8 then operandsN .recvAbort rest
    else if op = 0x0A#8 then operandsN .recvPoll rest
    else .error .unknownOpcode

/-- A received byte, by its class (R75): every byte is an instruction. -/
def decodeByte (b : Byte) : Instr :=
  match rxClass b with
  | .sof => .rxSof
  | .eof => .rxEof
  | .esc => .rxEsc
  | .data => .rxData b

/-- The decoder of both spaces. -/
def decode : Input → Except DecodeError Instr
  | .command c => decodeCommand c
  | .received b => .ok (decodeByte b)

/-- The encoder: the command string of a host command (R79, R80), or the byte of a receive class (R75). -/
def encode : Instr → Input
  | .crcUpdate c b => .command (0x01#8 :: u16Bytes c ++ [b])
  | .crcCompute d => .command (0x02#8 :: len16 d.length ++ d)
  | .stuff d => .command (0x03#8 :: len16 d.length ++ d)
  | .destuff d => .command (0x04#8 :: len16 d.length ++ d)
  | .build d c p => .command (0x05#8 :: d :: c :: len16 p.length ++ p)
  | .parse f => .command (0x06#8 :: len16 f.length ++ f)
  | .transmit d c p => .command (0x07#8 :: d :: c :: len16 p.length ++ p)
  | .recvArm a b => .command [0x08#8, a, b]
  | .recvAbort => .command [0x09#8]
  | .recvPoll => .command [0x0A#8]
  | .rxSof => .received sofByte
  | .rxEof => .received eofByte
  | .rxEsc => .received escByte
  | .rxData b => .received b

/-- Byte k of a table word: bits 8k+7..8k, as spec/opcode_table.json numbers them. -/
def tableByte (w k : Nat) : Byte := BitVec.ofNat 8 (w >>> (8 * k))

/-- The first n bytes of a table word. -/
def tableBytes (w n : Nat) : List Byte := (List.range n).map (tableByte w)

/-- The input a table word of nbits bits stands for. Its first byte says which encoding space it is of: an opcode of R80
begins a command string, any other byte is a received byte (log 12). A string is as long as its format implies (R87),
its bytes above nbits being zero. -/
def tableInput (nbits w : Nat) : Input :=
  let v := w % 2 ^ nbits
  match formatOf (tableByte v 0) with
  | some _ => .command (tableBytes v (max (nbits / 8) ((commandLength (tableBytes v 5)).getD 1)))
  | none => .received (tableByte v 0)

/-- The instruction the decoder reads from a table word. -/
def decodeTableWord (nbits w : Nat) : Option Instr :=
  match decode (tableInput nbits w) with
  | .ok i => some i
  | .error _ => none

end Sys2Proof
end

