-- ==== Sys2Proof/Machine/Fetch.lean ====
section
/-! DEFINITION. What a step takes up next: the head of the agenda (R23, R59; log 1). A host event hands over its command
string (R77); a receive event takes one byte of RXQ where the receive agent is enabled (R117) and is skipped where it is
not (R86, R118); reset and feed events settle at once. -/

namespace Sys2Proof.Machine

/-- What a step finds on the agenda. -/
inductive Fetched where
  /-- No instruction runs: the step ends in this state. -/
  | settled (s : State)
  /-- The input to decode, and the state it runs from. -/
  | input (w : Input) (s : State)
deriving DecidableEq, Repr

/-- The receive agent's turn (R117, R118). -/
def fetchByte (s : State) : Fetched :=
  if receiveEnabled s then
    match takeRx s with
    | some (b, t) => .input (.received b) t
    | none => .settled s
  else .settled s

/-- One event, the state already past it on the agenda. -/
def fetchEvent (e : Event) (s : State) : Fetched :=
  match e with
  | .host op operands => .input (.command (op :: operands)) s
  | .receive => fetchByte s
  | .reset => .settled (resetEvent s)
  | .feed bs => .settled (feedRx bs s)

/-- The next event; with none on the agenda, no agent acts and the state stays (R168; log 18). -/
def fetch (s : State) : Fetched :=
  match s.agenda with
  | [] => .settled s
  | e :: rest => fetchEvent e { s with agenda := rest }

/-- Places one input where the next step takes it up: a command at the head of the agenda; a byte at the head of RXQ, with
the receive agent's turn next and a wait armed, which its step needs (R117; log 3). -/
def placeInput (w : Input) (s : State) : State :=
  match w with
  | .command [] => s
  | .command (op :: operands) => { s with agenda := .host op operands :: s.agenda }
  | .received b => { s with rxq := b :: s.rxq, wstate := .waiting, agenda := .receive :: s.agenda }

end Sys2Proof.Machine
end

