-- ==== Sys2Proof/Machine/Step.lean ====
section
/-! DEFINITION. One step: the next event of the agenda, and where it carries an instruction, that instruction's meaning
(R3, R23, R117, R139). A command string that does not decode is an illegal command (R83, R149). -/

namespace Sys2Proof.Machine

/-- One atomic step. -/
def step (s : State) : Host.Outcome State Fault Refusal :=
  match fetch s with
  | .settled t => .next t
  | .input w t =>
    match decode w with
    | .ok i => exec i t
    | .error _ => .next (illegalCommand t)

/-- The table word stored where the next step fetches (log 3, log 12). -/
def State.withFetchWord (s : State) (nbits w : Nat) : State := placeInput (tableInput nbits w) s

end Sys2Proof.Machine
end

