-- ==== Sys2Proof/Safety.lean ====
section
/-! DEFINITION. What a good state is: the invariants of R48, R29 and R44 and the canonical form of RXBUF, in the terms the
claims use; and which states a run reaches. -/

namespace Sys2Proof.Safety

open Sys2Proof.Machine

/-- R29, R48.1: RXIDX ≤ RX_CAP - 1. -/
abbrev IndexInRange (cfg : Config) (s : State) : Prop := s.rxidx + 1 ≤ cfg.rxCap

/-- RXBUF is in canonical form and lists only indices below RX_CAP (R49). -/
abbrev BufferWf (cfg : Config) (s : State) : Prop :=
  Memory.wf s.rxbuf = true ∧ ∀ c ∈ s.rxbuf, c.1 < cfg.rxCap

/-- R44: every byte of RXBUF[0..RXIDX) has been written. -/
abbrev BodyWritten (s : State) : Prop := ∀ i < s.rxidx, (Memory.read s.rxbuf i).isSome = true

/-- R48.2: RES_MSG is held only in DONE with RES_STATUS = OK. -/
abbrev MessageOnlyWhenOk (s : State) : Prop :=
  s.resMsg ≠ none → s.wstate = .done ∧ s.resStatus = .ok

/-- R48.3: in DONE, RES_STATUS is a legal value of R35. -/
abbrev ResultLegal (s : State) : Prop := s.wstate = .done → s.resStatus.legalResult = true

/-- The message R48.4 describes: 8 ≤ len ≤ 255, a payload of len - 8 bytes, and the source and command of the wait. -/
abbrev MessageOfWait (s : State) (m : Message) : Prop :=
  overhead ≤ m.len.toNat ∧ m.len.toNat ≤ maxTotal ∧ m.payload.length = m.len.toNat - overhead ∧
    m.src = s.expSrc ∧ m.cmd = s.expCmd

/-- R48.4: in DONE with RES_STATUS = OK, RES_MSG is the message of the wait. -/
abbrev ResultMessage (s : State) : Prop :=
  s.wstate = .done → s.resStatus = .ok → ∃ m ∈ s.resMsg, MessageOfWait s m

/-- The invariant of the machine: R48 with R44 and the form of RXBUF. -/
abbrev Inv (cfg : Config) (s : State) : Prop :=
  IndexInRange cfg s ∧ BufferWf cfg s ∧ BodyWritten s ∧ MessageOnlyWhenOk s ∧ ResultLegal s ∧ ResultMessage s

/-- The instance at its start, with what is to happen on its agenda (R170; log 1, log 3). -/
def start (agenda : List Event) : State := { State.reset with agenda := agenda }

/-- The states some run of some agenda reaches. -/
def Reachable (s : State) : Prop := ∃ agenda n, Sys2Proof.core.run n (start agenda) = .next s

end Sys2Proof.Safety
end

