-- ==== Sys2Proof/Certificates/Slice0/Obligations.lean ====
section
/-! DEFINITION. The statements for the provers, from the numbered rules of spec/, with the few words they are written in. -/

open Sys2Proof Sys2Proof.Machine Sys2Proof.Safety

/-! ### Words the statements use -/

/-- The length a command string must have, from its opcode and its length field, written out from R79 and R87. -/
def Sys2Proof.Claims.impliedLength : List Byte → Option Nat
  | [] => none
  | op :: rest =>
    if op = 0x09#8 ∨ op = 0x0A#8 then some 1
    else if op = 0x08#8 then some 3
    else if op = 0x01#8 then some 4
    else if op = 0x02#8 ∨ op = 0x03#8 ∨ op = 0x04#8 ∨ op = 0x06#8 then
      match rest with
      | h :: l :: _ => some (3 + (256 * h.toNat + l.toNat))
      | _ => none
    else if op = 0x05#8 ∨ op = 0x07#8 then
      match rest with
      | _ :: _ :: h :: l :: _ => some (5 + (256 * h.toNat + l.toNat))
      | _ => none
    else none

/-- The illegal command strings (R83). -/
def Sys2Proof.Claims.IllegalString (op : Byte) (rest : List Byte) : Prop :=
  op = 0x00#8 ∨ 0x0B#8 ≤ op ∨ Claims.impliedLength (op :: rest) ≠ some (rest.length + 1)

/-- The state after a host command that writes nothing but its response (R21, R42). -/
def Sys2Proof.Claims.answered (s : State) (response : List Byte) : State :=
  { s with responses := s.responses ++ [response] }

/-- The CRC a command's response carries (R81). -/
def Sys2Proof.Claims.answeredCrc (o : Host.Outcome State Fault Refusal) : Word16 :=
  match o with
  | .next t =>
    match t.responses.getLast? with
    | some [_, h, l] => be16 h l
    | _ => 0x0000#16
  | _ => 0x0000#16

/-- The wire bytes of an interior byte (R70): an escape pair for a reserved value, else the byte. -/
def Sys2Proof.Claims.wireBytes (b : Byte) : List Byte :=
  if isReserved b then [0xE0#8, b ^^^ 0x20#8] else [b]

/-- The wire bytes of a unit of an escaped interior: a value and whether it is written as an escape pair. -/
def Sys2Proof.Claims.unitBytes (u : Byte × Bool) : List Byte :=
  if u.2 then [0xE0#8, u.1 ^^^ 0x20#8] else [u.1]

/-- Units that make a legal escaped interior: an escaped value is reserved, a raw one is no ESC. -/
def Sys2Proof.Claims.UnitsLegal (us : List (Byte × Bool)) : Prop :=
  ∀ u ∈ us, (u.2 = true → isReserved u.1 = true) ∧ (u.2 = false → u.1 ≠ 0xE0#8)

/-- Feeding bytes to `asm_step` one by one, with the events it returns (R111). -/
def Sys2Proof.Claims.asmFeed (cfg : Config) : List Byte → State → Except Fault (State × List AsmEvent)
  | [], s => .ok (s, [])
  | b :: bs, s =>
    match asmStep cfg b s with
    | .error f => .error f
    | .ok (t, e) =>
      match Claims.asmFeed cfg bs t with
      | .error f => .error f
      | .ok (u, es) => .ok (u, e :: es)

/-- The assembler's state right after it has delivered a frame (R113), with the 0x00 at the end of the body. -/
def Sys2Proof.Claims.delivered (s : State) : State :=
  { s with rxbuf := Memory.write s.rxbuf s.rxidx 0x00#8, rxidx := 0, escp := false, escerr := false }

/-! ### Encodings -/

/-- Decoding the encoding of a well-formed instruction gives it back, for all 14 rows and every operand. -/
def Obligations.DecodeOfEncodeIsIdentity : Prop :=
  ∀ i : Instr, i.wf = true → decode (encode i) = .ok i

/-- An input that decodes is the encoding of what it decodes to, and that is well formed. -/
def Obligations.EncodeOfDecodeIsIdentity : Prop :=
  ∀ (w : Input) (i : Instr), decode w = .ok i → i.wf = true ∧ encode i = w

/-- R83, R149: which command strings are illegal, and that an illegal one answers [0x0C] and writes nothing. -/
def Obligations.IllegalCommandAnswersAndWritesNothing : Prop :=
  ∀ (op : Byte) (rest : List Byte),
    ((∃ e, decode (.command (op :: rest)) = .error e) ↔ Claims.IllegalString op rest) ∧
    ∀ (s : State) (ag : List Event), s.agenda = .host op rest :: ag → Claims.IllegalString op rest →
      step s = .next { s with agenda := ag, responses := s.responses ++ [[0x0C#8]] }

/-- One string of each command, as spec/95_test_vectors.md and R79 write it, and one byte of each receive class. -/
def Obligations.SpecWordsDecode : Prop :=
  decode (.command [0x01#8, 0xE3#8, 0x00#8, 0xE2#8]) = .ok (.crcUpdate 0xE300#16 0xE2#8) ∧
  decode (.command [0x02#8, 0x00#8, 0x02#8, 0xE2#8, 0x88#8]) = .ok (.crcCompute [0xE2#8, 0x88#8]) ∧
  decode (.command [0x03#8, 0x00#8, 0x03#8, 0xE2#8, 0xE0#8, 0xE3#8]) = .ok (.stuff [0xE2#8, 0xE0#8, 0xE3#8]) ∧
  decode (.command [0x04#8, 0x00#8, 0x04#8, 0xE2#8, 0x01#8, 0xE0#8, 0xE3#8]) =
    .ok (.destuff [0xE2#8, 0x01#8, 0xE0#8, 0xE3#8]) ∧
  decode (.command [0x05#8, 0x88#8, 0x28#8, 0x00#8, 0x03#8, 0x0A#8, 0x0B#8, 0x00#8]) =
    .ok (.build 0x88#8 0x28#8 [0x0A#8, 0x0B#8, 0x00#8]) ∧
  decode (.command [0x06#8, 0x00#8, 0x02#8, 0xE2#8, 0x02#8]) = .ok (.parse [0xE2#8, 0x02#8]) ∧
  decode (.command [0x07#8, 0xE2#8, 0xE0#8, 0x00#8, 0x02#8, 0xE3#8, 0xE1#8]) =
    .ok (.transmit 0xE2#8 0xE0#8 [0xE3#8, 0xE1#8]) ∧
  decode (.command [0x08#8, 0x88#8, 0x28#8]) = .ok (.recvArm 0x88#8 0x28#8) ∧
  decode (.command [0x09#8]) = .ok .recvAbort ∧
  decode (.command [0x0A#8]) = .ok .recvPoll ∧
  decode (.received 0xE2#8) = .ok .rxSof ∧
  decode (.received 0xE3#8) = .ok .rxEof ∧
  decode (.received 0xE0#8) = .ok .rxEsc ∧
  decode (.received 0xE1#8) = .ok (.rxData 0xE1#8)

/-- R75: each received byte is of exactly one class, by its value; ACK is data. -/
def Obligations.ReceivedByteClasses : Prop :=
  ∀ b : Byte, decode (.received b) =
    .ok (if b = 0xE2#8 then .rxSof else if b = 0xE3#8 then .rxEof else if b = 0xE0#8 then .rxEsc else .rxData b)

/-! ### A step -/

/-- A step whose event is a host command that decodes runs that command, the event taken off the agenda. -/
def Obligations.StepRunsDecodedCommand : Prop :=
  ∀ (s : State) (op : Byte) (rest : List Byte) (ag : List Event) (i : Instr),
    s.agenda = .host op rest :: ag → decode (.command (op :: rest)) = .ok i →
      step s = exec i { s with agenda := ag }

/-- A receive turn with a wait armed and a byte in RXQ takes that byte and runs its instruction. -/
def Obligations.StepRunsReceivedByte : Prop :=
  ∀ (s : State) (ag : List Event) (b : Byte) (q : List Byte) (i : Instr),
    s.agenda = .receive :: ag → s.wstate = .waiting → s.rxq = b :: q → decode (.received b) = .ok i →
      step s = exec i { s with agenda := ag, rxq := q }

/-- R118, and R117's enabling condition: a receive turn without a byte, or without an armed wait, changes nothing; that
such a turn is skipped rather than impossible is the model's reading of R86 (log 10). -/
def Obligations.ReceiveTurnNotEnabledIsSkipped : Prop :=
  ∀ (s : State) (ag : List Event), s.agenda = .receive :: ag → (s.rxq = [] ∨ s.wstate ≠ .waiting) →
    step s = .next { s with agenda := ag }

/-- What the reset event writes, and that it leaves RXQ and TXLOG (R169). That it leaves RXBUF, which R169 lets a model leave
or fill, and the model's own responses and remaining agenda, is the model's choice (log 16). -/
def Obligations.ResetEventWrites : Prop :=
  ∀ (s : State) (ag : List Event), s.agenda = .reset :: ag →
    step s = .next { s with
      agenda := ag, rxidx := 0, escp := false, escerr := false, wstate := .idle, expSrc := 0x00#8, expCmd := 0x00#8,
      resStatus := .ok, resMsg := none }

/-- The environment's event appends to RXQ (R37); an empty agenda is an idle step (the model's choice, log 18). -/
def Obligations.FeedAppendsAndEmptyAgendaIdles : Prop :=
  ∀ s : State,
    (∀ (bs : List Byte) (ag : List Event), s.agenda = .feed bs :: ag →
      step s = .next { s with agenda := ag, rxq := s.rxq ++ bs }) ∧
    (s.agenda = [] → step s = .next s)

/-- R170: the values of the state an instance starts in. -/
def Obligations.StartStateValues : Prop :=
  State.reset.rxidx = 0 ∧ State.reset.escp = false ∧ State.reset.escerr = false ∧ State.reset.wstate = .idle ∧
  State.reset.expSrc = 0x00#8 ∧ State.reset.expCmd = 0x00#8 ∧ State.reset.resStatus.code = 0x00#8 ∧
  State.reset.resMsg = none ∧ State.reset.rxq = [] ∧ State.reset.txlog = []

/-! ### The CRC-16 unit -/

/-- R89: the single-byte update bit by bit, in each form. -/
def Obligations.CrcUpdateBitLevel : Prop :=
  ∀ (cfg : Config) (c : Word16) (b : Byte),
    (cfg.crcForm = .reflected →
      crcUpdate cfg c b =
        (fun x : Word16 => if x.getLsbD 0 then (x >>> 1) ^^^ cfg.crcPoly else x >>> 1)^[8] (c ^^^ b.setWidth 16)) ∧
    (cfg.crcForm = .normal →
      crcUpdate cfg c b =
        (fun x : Word16 => if x.getLsbD 15 then (x <<< 1) ^^^ cfg.crcPoly else x <<< 1)^[8]
          (c ^^^ (b.setWidth 16 <<< 8)))

/-- R90, R91: the table-driven update in each form, its table being the update from 0x0000, and that it equals the bit-level
one, for every polynomial, register value and byte. -/
def Obligations.TableDrivenUpdateAgrees : Prop :=
  ∀ (cfg : Config) (c : Word16) (b : Byte),
    (cfg.crcForm = .reflected →
      crcTableUpdate cfg c b = (c >>> 8) ^^^ crcUpdate cfg 0x0000#16 ((c ^^^ b.setWidth 16).setWidth 8)) ∧
    (cfg.crcForm = .normal →
      crcTableUpdate cfg c b = (c <<< 8) ^^^ crcUpdate cfg 0x0000#16 (((c >>> 8) ^^^ b.setWidth 16).setWidth 8)) ∧
    crcTableUpdate cfg c b = crcUpdate cfg c b

/-- R95: CRC_UPDATE answers the updated CRC and writes nothing else. -/
def Obligations.CrcUpdateResult : Prop :=
  ∀ (c : Word16) (b : Byte) (s : State),
    encode (.crcUpdate c b) = .command [0x01#8, hi c, lo c, b] ∧
    exec (.crcUpdate c b) s =
      .next (Claims.answered s [0x00#8, hi (crcUpdate config c b), lo (crcUpdate config c b)])

/-- R96, R92: CRC_COMPUTE answers the fold from 0xE300 and writes nothing else. -/
def Obligations.CrcComputeResult : Prop :=
  ∀ (data : List Byte) (s : State),
    encode (.crcCompute data) = .command (0x02#8 :: len16 data.length ++ data) ∧
    exec (.crcCompute data) s =
      .next (Claims.answered s
        [0x00#8, hi (data.foldl (crcUpdate config) 0xE300#16), lo (data.foldl (crcUpdate config) 0xE300#16)])

/-- R97: folding CRC_UPDATE over a sequence from 0xE300 gives the CRC_COMPUTE of the sequence, as the responses say. -/
def Obligations.IncrementalAndBlockCrcAgree : Prop :=
  ∀ (data : List Byte) (s : State),
    data.foldl (fun c b => Claims.answeredCrc (exec (.crcUpdate c b) s)) 0xE300#16 =
      Claims.answeredCrc (exec (.crcCompute data) s)

/-- R94, third consequence: for each byte, the update is a bijection on u16, in both forms with the polynomials of R10. -/
def Obligations.CrcUpdateIsBijection : Prop :=
  ∀ (cfg : Config) (b : Byte), cfg.crcPoly = specPoly cfg.crcForm →
    Function.Bijective fun c : Word16 => crcUpdate cfg c b

/-- R98: changing exactly one byte changes the CRC, in both forms with the polynomials of R10 (for every length, the
rule's 1 to 252 among them). -/
def Obligations.SingleByteErrorChangesCrc : Prop :=
  ∀ (cfg : Config) (s : List Byte) (i : Nat) (b e : Byte), cfg.crcPoly = specPoly cfg.crcForm →
    s[i]? = some b → e ≠ 0x00#8 → crc16 cfg (s.set i (b ^^^ e)) ≠ crc16 cfg s

/-! ### Stuffing and destuffing -/

/-- R100, R104: STUFF's response for every input: empty, one byte, and first byte, interior and last byte. -/
def Obligations.StuffResult : Prop :=
  ∀ s : State,
    (∀ data : List Byte, encode (.stuff data) = .command (0x03#8 :: len16 data.length ++ data)) ∧
    exec (.stuff []) s = .next (Claims.answered s (0x00#8 :: len16 0 ++ len32 0)) ∧
    (∀ b : Byte, exec (.stuff [b]) s = .next (Claims.answered s (0x00#8 :: len16 0 ++ len32 1 ++ [b]))) ∧
    ∀ (first last : Byte) (interior W : List Byte),
      W = first :: interior.flatMap Claims.wireBytes ++ [last] →
        exec (.stuff (first :: interior ++ [last])) s =
          .next (Claims.answered s (0x00#8 :: len16 (interior.countP isReserved) ++ len32 W.length ++ W))

/-- R101: the inserted count is the number of reserved interior bytes, and the length grows by it. -/
def Obligations.InsertedCountAndWireLength : Prop :=
  ∀ U : List Byte,
    (stuff U).2 = (U.tail.dropLast).countP isReserved ∧
    (2 ≤ U.length → (stuff U).1.length = U.length + (stuff U).2) ∧
    (U.length ≤ 1 → (stuff U).1.length = U.length ∧ (stuff U).2 = 0)

/-- R107: stuffing never touches the first or the last byte. -/
def Obligations.StuffKeepsFirstAndLast : Prop :=
  ∀ U : List Byte,
    (1 ≤ U.length → (stuff U).1.head? = U.head?) ∧ (2 ≤ U.length → (stuff U).1.getLast? = U.getLast?)

/-- R71: the four escape pairs, and that an escaped frame's interior holds a reserved value only as an ESC before
0xC0..0xC3. -/
def Obligations.WireInteriorHasNoRawReserved : Prop :=
  ((stuff [0xE2#8, 0xE0#8, 0xE1#8, 0xE2#8, 0xE3#8, 0xE3#8]).1 =
    [0xE2#8, 0xE0#8, 0xC0#8, 0xE0#8, 0xC1#8, 0xE0#8, 0xC2#8, 0xE0#8, 0xC3#8, 0xE3#8]) ∧
  ∀ interior W : List Byte, W = (stuff (0xE2#8 :: interior ++ [0xE3#8])).1 →
    W.head? = some 0xE2#8 ∧ W.getLast? = some 0xE3#8 ∧
    ∀ (i : Nat) (b : Byte), 1 ≤ i → i + 1 < W.length → W[i]? = some b → isReserved b = true →
      b = 0xE0#8 ∧ i + 2 < W.length ∧ ∃ c ∈ [0xC0#8, 0xC1#8, 0xC2#8, 0xC3#8], W[i + 1]? = some c

/-- R105: DESTUFF's response, by what destuffing gives, and that it writes nothing else. -/
def Obligations.DestuffResult : Prop :=
  ∀ (data : List Byte) (s : State),
    encode (.destuff data) = .command (0x04#8 :: len16 data.length ++ data) ∧
    (∀ U, destuff data = .ok U →
      exec (.destuff data) s = .next (Claims.answered s (0x00#8 :: len16 U.length ++ U))) ∧
    (∀ j, destuff data = .error (.truncated j) →
      exec (.destuff data) s = .next (Claims.answered s (0x06#8 :: len16 j))) ∧
    (∀ j, destuff data = .error (.unrecognized j) →
      exec (.destuff data) s = .next (Claims.answered s (0x07#8 :: len16 j)))

/-- R102, R103: destuffing of every sequence. Past the first byte a sequence is a run of legal units (raw bytes that are
no ESC, escape pairs of a reserved value) followed by one of four ends: a last byte, an ESC as the last byte, an ESC just
before the last byte, or an ESC whose pair is no reserved value. The ESC's index is reported. -/
def Obligations.DestuffByEscapeUnits : Prop :=
  destuff [] = .ok [] ∧ (∀ b : Byte, destuff [b] = .ok [b]) ∧
  (∀ (first : Byte) (us : List (Byte × Bool)), Claims.UnitsLegal us →
    (∀ last : Byte, last ≠ 0xE0#8 →
      destuff (first :: us.flatMap Claims.unitBytes ++ [last]) = .ok (first :: us.map (·.1) ++ [last])) ∧
    destuff (first :: us.flatMap Claims.unitBytes ++ [0xE0#8]) =
      .error (.truncated (1 + (us.flatMap Claims.unitBytes).length)) ∧
    (∀ last : Byte,
      destuff (first :: us.flatMap Claims.unitBytes ++ [0xE0#8, last]) =
        .error (.truncated (1 + (us.flatMap Claims.unitBytes).length))) ∧
    (∀ (c d : Byte) (rest : List Byte), isReserved (c ^^^ 0x20#8) = false →
      destuff (first :: us.flatMap Claims.unitBytes ++ 0xE0#8 :: c :: d :: rest) =
        .error (.unrecognized (1 + (us.flatMap Claims.unitBytes).length)))) ∧
  ∀ W : List Byte, 2 ≤ W.length → ∃ (first : Byte) (us : List (Byte × Bool)), Claims.UnitsLegal us ∧
    ((∃ last : Byte, last ≠ 0xE0#8 ∧ W = first :: us.flatMap Claims.unitBytes ++ [last]) ∨
      W = first :: us.flatMap Claims.unitBytes ++ [0xE0#8] ∨
      (∃ last : Byte, W = first :: us.flatMap Claims.unitBytes ++ [0xE0#8, last]) ∨
      ∃ (c d : Byte) (rest : List Byte), isReserved (c ^^^ 0x20#8) = false ∧
        W = first :: us.flatMap Claims.unitBytes ++ 0xE0#8 :: c :: d :: rest)

/-- R106: destuffing a stuffed sequence gives it back, but for a sequence of two bytes or more whose last byte is ESC,
which is a truncated escape at the last wire byte. -/
def Obligations.DestuffInvertsStuff : Prop :=
  ∀ U : List Byte,
    ((2 ≤ U.length → U.getLast? ≠ some 0xE0#8) → destuff (stuff U).1 = .ok U) ∧
    (2 ≤ U.length → U.getLast? = some 0xE0#8 →
      destuff (stuff U).1 = .error (.truncated ((stuff U).1.length - 1)))

/-! ### Building and parsing frames -/

/-- R127, R128: BUILD's response: the frame for a payload of up to 247 bytes, PayloadTooLarge beyond. -/
def Obligations.BuildResult : Prop :=
  ∀ (dest cmd : Byte) (P : List Byte) (s : State) (head : List Byte) (c : Word16),
    head = [0xE2#8, dest, BitVec.ofNat 8 (P.length + 8), config.localAddr, cmd] ++ P → c = crc16 config head →
    encode (.build dest cmd P) = .command (0x05#8 :: dest :: cmd :: len16 P.length ++ P) ∧
    (P.length ≤ 247 →
      exec (.build dest cmd P) s =
        .next (Claims.answered s (0x00#8 :: len16 (P.length + 8) ++ (head ++ [hi c, lo c, 0xE3#8])))) ∧
    (247 < P.length → exec (.build dest cmd P) s = .next (Claims.answered s [0x08#8]))

/-- R66, R68: every byte of a built frame, and that its length field is its length, 8 to 255. -/
def Obligations.BuiltFrameLayout : Prop :=
  ∀ (cfg : Config) (dest cmd : Byte) (P F : List Byte), build cfg dest cmd P = .ok F →
    F.length = P.length + 8 ∧ F.length ≤ 255 ∧
    F[0]? = some 0xE2#8 ∧ F[1]? = some dest ∧ F[2]?.map BitVec.toNat = some F.length ∧
    F[3]? = some cfg.localAddr ∧ F[4]? = some cmd ∧
    (∀ i < P.length, F[5 + i]? = P[i]?) ∧
    F[5 + P.length]? = some (hi (crc16 cfg (F.take (5 + P.length)))) ∧
    F[6 + P.length]? = some (lo (crc16 cfg (F.take (5 + P.length)))) ∧
    F[7 + P.length]? = some 0xE3#8

/-- R129 to R131: PARSE's response, check by check in the order of the rule; every frame meets exactly one clause. -/
def Obligations.ParseResult : Prop :=
  ∀ (F : List Byte) (s : State),
    encode (.parse F) = .command (0x06#8 :: len16 F.length ++ F) ∧
    (F[0]? ≠ some 0xE2#8 → exec (.parse F) s = .next (Claims.answered s [0x02#8])) ∧
    (F[0]? = some 0xE2#8 →
      (F[2]?.map BitVec.toNat ≠ some F.length → exec (.parse F) s = .next (Claims.answered s [0x03#8])) ∧
      (F[2]?.map BitVec.toNat = some F.length →
        ∀ h l last : Byte, F[F.length - 3]? = some h → F[F.length - 2]? = some l → F.getLast? = some last →
          (crc16 config (F.take (F.length - 3)) ≠ be16 h l →
            exec (.parse F) s = .next (Claims.answered s [0x04#8])) ∧
          (crc16 config (F.take (F.length - 3)) = be16 h l →
            (last ≠ 0xE3#8 → exec (.parse F) s = .next (Claims.answered s [0x05#8])) ∧
            (last = 0xE3#8 →
              (F.length < 8 → exec (.parse F) s = .next (Claims.answered s [0x03#8])) ∧
              ∀ (dest len src cmd : Byte) (P : List Byte),
                F = [0xE2#8, dest, len, src, cmd] ++ P ++ [h, l, 0xE3#8] →
                  exec (.parse F) s = .next (Claims.answered s ([0x00#8, dest, src, cmd, len] ++ P))))))

/-- R134: parsing a built frame recovers what it was built from. -/
def Obligations.ParseInvertsBuild : Prop :=
  ∀ (cfg : Config) (dest cmd : Byte) (P : List Byte), P.length ≤ 247 →
    ∃ F, build cfg dest cmd P = .ok F ∧
      parse cfg F = .ok { dest := dest, src := cfg.localAddr, cmd := cmd, len := BitVec.ofNat 8 (P.length + 8),
                          payload := P }

/-- R136: a declared length of 0x0B and twelve bytes observed is LengthMismatch, whatever the other bytes. -/
def Obligations.DeclaredLengthMismatchReported : Prop :=
  ∀ (F : List Byte) (s : State), F[0]? = some 0xE2#8 → F[2]? = some 0x0B#8 → F.length = 12 →
    exec (.parse F) s = .next (Claims.answered s [0x03#8])

/-- R137: what parsing reports for a built frame with one byte corrupted, by the byte's position, in both forms with the
polynomials of R10. -/
def Obligations.SingleByteCorruptionStatus : Prop :=
  ∀ (cfg : Config) (dest cmd : Byte) (P F : List Byte) (i : Nat) (b e : Byte),
    cfg.crcPoly = specPoly cfg.crcForm → build cfg dest cmd P = .ok F → F[i]? = some b → e ≠ 0x00#8 →
      parse cfg (F.set i (b ^^^ e)) =
        .error (if i = 0 then .invalidStart else if i = 2 then .lengthMismatch
          else if i + 1 = F.length then .missingTerminator else .checksumMismatch)

/-- R138: the build scenario of the source's §8, for any local address, form and polynomial. -/
def Obligations.BuildScenario : Prop :=
  ∀ (cfg : Config) (head : List Byte),
    head = [0xE2#8, 0x88#8, 0x0B#8, cfg.localAddr, 0x28#8, 0x0A#8, 0x0B#8, 0x00#8] →
      build cfg 0x88#8 0x28#8 [0x0A#8, 0x0B#8, 0x00#8] =
        .ok (head ++ [hi (crc16 cfg head), lo (crc16 cfg head), 0xE3#8])

/-! ### The link controller -/

/-- R140: TRANSMIT appends the escaped frame and an ACK to TXLOG and answers the counts; a payload over 247 bytes is
rejected before any I/O. -/
def Obligations.TransmitResult : Prop :=
  ∀ (dest cmd : Byte) (P : List Byte) (s : State),
    encode (.transmit dest cmd P) = .command (0x07#8 :: dest :: cmd :: len16 P.length ++ P) ∧
    (P.length ≤ 247 → ∀ (F W : List Byte) (k : Nat), build config dest cmd P = .ok F → stuff F = (W, k) →
      exec (.transmit dest cmd P) s =
        .next { s with txlog := s.txlog ++ (W ++ [0xE1#8]),
                       responses := s.responses ++ [0x00#8 :: len16 k ++ len16 W.length] }) ∧
    (247 < P.length → exec (.transmit dest cmd P) s = .next (Claims.answered s [0x08#8]))

/-- R72: the bounds of a built frame and of its escaped form, and what a TRANSMIT of it adds to TXLOG. -/
def Obligations.WireLengthBounds : Prop :=
  ∀ (dest cmd : Byte) (P F W : List Byte), build config dest cmd P = .ok F → W = (stuff F).1 →
    8 ≤ F.length ∧ F.length ≤ 255 ∧ F.length ≤ W.length ∧ W.length ≤ 2 * F.length - 2 ∧ W.length ≤ 508 ∧
    ∀ s : State, ∃ t, exec (.transmit dest cmd P) s = .next t ∧ t.txlog.length = s.txlog.length + (W.length + 1)

/-- R142: RECV_ARM, in every WSTATE, with the assembler untouched. -/
def Obligations.RecvArmResult : Prop :=
  ∀ (src cmd : Byte) (s : State),
    encode (.recvArm src cmd) = .command [0x08#8, src, cmd] ∧
    exec (.recvArm src cmd) s =
      .next { s with expSrc := src, expCmd := cmd, resStatus := .ok, resMsg := none, wstate := .waiting,
                     responses := s.responses ++ [[0x00#8]] }

/-- R143: RECV_ABORT ends a wait with Timeout, and otherwise answers NoWait and writes nothing. -/
def Obligations.RecvAbortResult : Prop :=
  ∀ s : State,
    encode .recvAbort = .command [0x09#8] ∧
    (s.wstate = .waiting →
      exec .recvAbort s =
        .next { s with wstate := .done, resStatus := .timeout, resMsg := none,
                       responses := s.responses ++ [[0x00#8]] }) ∧
    (s.wstate ≠ .waiting → exec .recvAbort s = .next (Claims.answered s [0x0B#8]))

/-- R144: RECV_POLL answers by WSTATE and the held result, and writes nothing. -/
def Obligations.RecvPollResult : Prop :=
  ∀ s : State,
    encode .recvPoll = .command [0x0A#8] ∧
    (s.wstate = .idle → exec .recvPoll s = .next (Claims.answered s [0x0B#8])) ∧
    (s.wstate = .waiting → exec .recvPoll s = .next (Claims.answered s [0x0A#8])) ∧
    (s.wstate = .done → s.resStatus ≠ .ok →
      exec .recvPoll s = .next (Claims.answered s [s.resStatus.code])) ∧
    (s.wstate = .done → s.resStatus = .ok → ∀ m : Message, s.resMsg = some m →
      exec .recvPoll s = .next (Claims.answered s ([0x00#8, m.dest, m.src, m.cmd, m.len] ++ m.payload)))

/-- R146: the filter, for either value of CHECK_DEST. -/
def Obligations.FilterMatches : Prop :=
  ∀ (cfg : Config) (m : Message) (s : State),
    matchesWait cfg m s = true ↔
      m.src = s.expSrc ∧ m.cmd = s.expCmd ∧ (cfg.checkDest = false ∨ m.dest = cfg.localAddr)

/-! ### The receive byte classes -/

/-- R112: a SOF resets the index and clears both flags, and touches nothing else. -/
def Obligations.RxSofResult : Prop :=
  ∀ s : State,
    encode .rxSof = .received 0xE2#8 ∧
    exec .rxSof s = .next { s with rxidx := 0, escp := false, escerr := false }

/-- R114: an ESC sets ESCP, and ESCERR where an escape was pending, and touches nothing else. -/
def Obligations.RxEscResult : Prop :=
  ∀ s : State,
    encode .rxEsc = .received 0xE0#8 ∧
    (s.escp = false → exec .rxEsc s = .next { s with escp := true }) ∧
    (s.escp = true → exec .rxEsc s = .next { s with escp := true, escerr := true })

/-- R115, R116: a data byte, transformed where an escape is pending, is stored at RXIDX or dropped. -/
def Obligations.RxDataResult : Prop :=
  ∀ (b v : Byte) (e : Bool) (s : State), b ≠ 0xE0#8 → b ≠ 0xE2#8 → b ≠ 0xE3#8 →
    (s.escp = false → v = b ∧ e = s.escerr) →
    (s.escp = true → v = b ^^^ 0x20#8 ∧ e = (s.escerr || !isReserved v)) →
    encode (.rxData b) = .received b ∧
    (s.rxidx < config.rxCap - 1 →
      exec (.rxData b) s =
        .next { s with escp := false, escerr := e, rxbuf := Memory.write s.rxbuf s.rxidx v, rxidx := s.rxidx + 1 }) ∧
    (config.rxCap - 1 ≤ s.rxidx → exec (.rxData b) s = .next { s with escp := false, escerr := e })

/-- R113, R133, R145, R146: an EOF terminates the body and completes the frame, in one step. A bad escape ends the wait
with its status; else the rebuilt frame is parsed, a parse failure ends the wait with it, a matching message ends the wait
with OK, and any other valid frame is discarded. -/
def Obligations.RxEofResult : Prop :=
  ∀ s : State, s.rxidx ≤ config.rxCap - 1 →
    encode .rxEof = .received 0xE3#8 ∧
    (s.escerr = true →
      exec .rxEof s =
        .next { Claims.delivered s with wstate := .done, resStatus := .unrecognizedEscape, resMsg := none }) ∧
    (s.escerr = false → s.escp = true →
      exec .rxEof s =
        .next { Claims.delivered s with wstate := .done, resStatus := .truncatedEscape, resMsg := none }) ∧
    (s.escerr = false → s.escp = false → ∀ body : List Byte, body.length = s.rxidx →
      (∀ i < s.rxidx, Memory.read s.rxbuf i = body[i]?) →
      (∀ e : Status, parse config ([0xE2#8] ++ body ++ [0xE3#8]) = .error e →
        exec .rxEof s = .next { Claims.delivered s with wstate := .done, resStatus := e, resMsg := none }) ∧
      (∀ m : Message, parse config ([0xE2#8] ++ body ++ [0xE3#8]) = .ok m →
        (m.src = s.expSrc ∧ m.cmd = s.expCmd →
          exec .rxEof s = .next { Claims.delivered s with wstate := .done, resStatus := .ok, resMsg := some m }) ∧
        (¬ (m.src = s.expSrc ∧ m.cmd = s.expCmd) → exec .rxEof s = .next (Claims.delivered s))))

/-! ### What is left unchanged -/

/-- The receive buffer, byte by byte: only RX_DATA and RX_EOF write, and only the byte at RXIDX; a dropped data byte
writes none. -/
def Obligations.RxBufferFrame : Prop :=
  ∀ (i : Instr) (s t : State), exec i s = .next t →
    (∀ a, a ≠ s.rxidx → Memory.read t.rxbuf a = Memory.read s.rxbuf a) ∧
    ((∀ b, i ≠ .rxData b) → i ≠ .rxEof → ∀ a, Memory.read t.rxbuf a = Memory.read s.rxbuf a) ∧
    (i = .rxEof → Memory.read t.rxbuf s.rxidx = some 0x00#8) ∧
    (∀ b, i = .rxData b →
      (s.rxidx < config.rxCap - 1 →
        Memory.read t.rxbuf s.rxidx = some (if s.escp then b ^^^ 0x20#8 else b)) ∧
      (config.rxCap - 1 ≤ s.rxidx → ∀ a, Memory.read t.rxbuf a = Memory.read s.rxbuf a))

/-- R43, and the host rows of R40: no host command writes the receive assembler, RXQ or the agenda, and each of the
ten answers. -/
def Obligations.HostCommandsLeaveAssembler : Prop :=
  ∀ (i : Instr) (s : State), i.isCommand = true →
    ∃ t, exec i s = .next t ∧ t.rxbuf = s.rxbuf ∧ t.rxidx = s.rxidx ∧ t.escp = s.escp ∧ t.escerr = s.escerr ∧
      t.rxq = s.rxq ∧ t.agenda = s.agenda

/-- R153: a host command whose response is not OK writes nothing but that response. -/
def Obligations.FailedCommandWritesNothing : Prop :=
  ∀ (i : Instr) (s t : State) (st : Byte) (fields : List Byte), i.isCommand = true → exec i s = .next t →
    t.responses = s.responses ++ [st :: fields] → st ≠ 0x00#8 → t = { s with responses := t.responses }

/-- R42, R84, R152: a host step answers exactly one response, whose status is one of R82's codes and never
AllocationFailure; no other step answers. The premise on the held result is R48's third invariant. -/
def Obligations.OneResponsePerHostStep : Prop :=
  ∀ (s : State) (e : Event) (ag : List Event), s.agenda = e :: ag → ResultLegal s →
    (∀ op rest, e = .host op rest →
      ∃ t st fields, step s = .next t ∧ t.responses = s.responses ++ [st :: fields] ∧ st.toNat ≤ 0x0C ∧
        st ≠ 0x01#8) ∧
    ((∀ op rest, e ≠ .host op rest) → ∀ t, step s = .next t → t.responses = s.responses)

/-- R36: TXLOG only grows, and only by a TRANSMIT. -/
def Obligations.OnlyTransmitAppendsToTxlog : Prop :=
  ∀ s t : State, step s = .next t →
    s.txlog <+: t.txlog ∧
    (t.txlog ≠ s.txlog → ∃ op rest ag dest cmd P, s.agenda = .host op rest :: ag ∧
      decode (.command (op :: rest)) = .ok (.transmit dest cmd P) ∧ P.length ≤ 247)

/-- R37: RXQ changes only by the environment's appending, or by the receive agent's taking its oldest byte in a wait. -/
def Obligations.OnlyReceiveTakesFromRxq : Prop :=
  ∀ s t : State, step s = .next t →
    t.rxq = s.rxq ∨ (∃ bs ag, s.agenda = .feed bs :: ag ∧ t.rxq = s.rxq ++ bs) ∨
    ∃ b ag, s.agenda = .receive :: ag ∧ s.wstate = .waiting ∧ s.rxq = b :: t.rxq

/-- R147: a wait ends only by reset, by RECV_ABORT, or by a received EOF. -/
def Obligations.WaitEndsOnlyBy : Prop :=
  ∀ s t : State, s.wstate = .waiting → step s = .next t → t.wstate ≠ .waiting →
    ∃ e ag, s.agenda = e :: ag ∧
      (e = .reset ∨ e = .host 0x09#8 [] ∨ (e = .receive ∧ s.rxq.head? = some 0xE3#8))

/-- R157: a RECV_ABORT and an EOF that would end the wait, in both orders. -/
def Obligations.AbortAndFrameRace : Prop :=
  ∀ (s : State) (q : List Byte) (ag : List Event), s.wstate = .waiting → s.rxq = 0xE3#8 :: q →
    (s.agenda = .host 0x09#8 [] :: .receive :: ag →
      Sys2Proof.core.run 2 s =
        .next { s with agenda := ag, wstate := .done, resStatus := .timeout, resMsg := none,
                       responses := s.responses ++ [[0x00#8]] }) ∧
    (s.agenda = .receive :: .host 0x09#8 [] :: ag → ∀ t : State, step s = .next t → t.wstate = .done →
      Sys2Proof.core.run 2 s = .next { t with agenda := ag, responses := s.responses ++ [[0x0B#8]] })

/-! ### Invariants -/

/-- The state an instance starts in meets the invariant. -/
def Obligations.StartMeetsInvariant : Prop := Inv config State.reset

/-- R48, R29, R44: every step from a good state ends in a good state: RXIDX in range, RXBUF canonical and in range, every
byte of the body so far written, and the held result legal. -/
def Obligations.StepKeepsInvariant : Prop :=
  ∀ s t : State, Inv config s → step s = .next t → Inv config t

/-- R26, R62, R150: from a good state every step answers a next state: no access faults, nothing is refused. -/
def Obligations.GoodStateStepAnswers : Prop :=
  ∀ s : State, Inv config s → ∃ t, step s = .next t

/-! ### Whole frames -/

/-- R120: the wire form of a frame, fed to the assembler from any state, delivers the frame's interior with its last
byte, and signals nothing before. -/
def Obligations.WireFormIsReceived : Prop :=
  ∀ (cfg : Config) (s : State) (interior W : List Byte),
    W = (stuff (0xE2#8 :: interior ++ [0xE3#8])).1 → interior.length + 1 ≤ cfg.rxCap →
      ∃ u, Claims.asmFeed cfg W s =
          .ok (u, List.replicate (W.length - 1) .noEvent ++ [.frameComplete interior.length .ok]) ∧
        rxbufBody u.rxbuf interior.length = .ok interior

/-- R122: bytes collected before a second SOF leave no trace in the body that is delivered. -/
def Obligations.MidFrameSofDiscards : Prop :=
  ∀ (cfg : Config) (s : State) (xs interior W : List Byte), 0xE3#8 ∉ xs →
    W = (stuff (0xE2#8 :: interior ++ [0xE3#8])).1 → interior.length + 1 ≤ cfg.rxCap →
      ∃ u, Claims.asmFeed cfg (0xE2#8 :: xs ++ W) s =
          .ok (u, List.replicate (xs.length + W.length) .noEvent ++ [.frameComplete interior.length .ok]) ∧
        rxbufBody u.rxbuf interior.length = .ok interior

/-- R123: of a body with more data bytes than fit, the first RX_CAP - 1 are delivered, with status OK. -/
def Obligations.OverflowKeepsFirstBytes : Prop :=
  ∀ (cfg : Config) (s : State) (xs : List Byte), 1 ≤ cfg.rxCap → (∀ b ∈ xs, rxClass b = .data) →
    ∃ u, Claims.asmFeed cfg (0xE2#8 :: xs ++ [0xE3#8]) s =
        .ok (u, List.replicate (xs.length + 1) .noEvent ++ [.frameComplete (min xs.length (cfg.rxCap - 1)) .ok]) ∧
      rxbufBody u.rxbuf (min xs.length (cfg.rxCap - 1)) = .ok (xs.take (cfg.rxCap - 1))

/-- R126: on a sequence with one SOF and one EOF, the assembler's status is DESTUFF's, and where DESTUFF succeeds and the
body fits, the body is what DESTUFF gives without its two ends. -/
def Obligations.AssemblerAgreesWithDestuff : Prop :=
  ∀ (cfg : Config) (s : State) (mid W : List Byte), 1 ≤ cfg.rxCap → 0xE2#8 ∉ mid → 0xE3#8 ∉ mid →
    W = 0xE2#8 :: mid ++ [0xE3#8] →
      ∃ u L st, Claims.asmFeed cfg W s =
          .ok (u, List.replicate (mid.length + 1) .noEvent ++ [.frameComplete L st]) ∧
        (∀ U, destuff W = .ok U → st = .ok ∧
          (U.length - 2 ≤ cfg.rxCap - 1 → L = U.length - 2 ∧
            rxbufBody u.rxbuf L = .ok (slice U 1 (U.length - 1)))) ∧
        (∀ j, destuff W = .error (.unrecognized j) → st = .unrecognizedEscape) ∧
        (∀ j, destuff W = .error (.truncated j) → st = .truncatedEscape)

/-- R135 at the link: a frame built by any peer for the awaited source and command, stuffed and fed from RXQ, ends the
wait with OK and exactly its message; everything but the wait's result and the assembler is as before. -/
def Obligations.EndToEndDelivery : Prop :=
  ∀ (peer dest cmd : Byte) (P F W q : List Byte) (ag : List Event) (s : State),
    build { config with localAddr := peer } dest cmd P = .ok F → W = (stuff F).1 →
    s.wstate = .waiting → s.expSrc = peer → s.expCmd = cmd → s.rxq = W ++ q →
    s.agenda = List.replicate W.length .receive ++ ag →
      ∃ mem, Sys2Proof.core.run W.length s =
        .next { s with
          rxbuf := mem, rxidx := 0, escp := false, escerr := false, wstate := .done, resStatus := .ok,
          resMsg := some { dest := dest, src := peer, cmd := cmd, len := BitVec.ofNat 8 (P.length + 8), payload := P },
          rxq := q, agenda := ag }

/-! ### Outside the invariant -/

/-- What the model does in states that no run reaches, its own choice throughout: an EOF with RXIDX at or above RX_CAP
faults (log 8), an EOF whose body holds a byte that nothing has written faults at the first such byte (log 7), and a poll of
an OK result without a message answers the status alone (log 21). -/
def Obligations.OutsideTheInvariant : Prop :=
  ∀ s : State,
    (config.rxCap ≤ s.rxidx → exec .rxEof s = .fault (.rxbufOutOfRange s.rxidx)) ∧
    (s.rxidx < config.rxCap → s.escp = false → s.escerr = false →
      ∀ j < s.rxidx, (∀ i < j, (Memory.read s.rxbuf i).isSome = true) → Memory.read s.rxbuf j = none →
        exec .rxEof s = .fault (.rxbufUnwritten j)) ∧
    (s.wstate = .done → s.resStatus = .ok → s.resMsg = none →
      exec .recvPoll s = .next (Claims.answered s [0x00#8]))
end

