-- ==== Sys2Proof/Laws/Memory.lean ====
section
/-! SUPPORT. The receive buffer's laws: a read after a write, the canonical form, and what a body read is. -/

namespace Sys2Proof.Machine

@[simp] theorem Memory.read_nil (a : Nat) : Memory.read [] a = none := rfl

theorem Memory.read_cons (k : Nat) (v : Byte) (m : Memory) (a : Nat) :
    Memory.read ((k, v) :: m) a = if k = a then some v else Memory.read m a := rfl

/-- Every index of a canonical list's tail is above its head's. -/
theorem Memory.wf_cons {x : Host.Cell} {m : Memory} (h : Memory.wf (x :: m) = true) :
    Memory.wf m = true ∧ ∀ c ∈ m, x.1 < c.1 := by
  induction m generalizing x with
  | nil => simp [Memory.wf]
  | cons y m ih =>
    simp only [Memory.wf, Bool.and_eq_true, decide_eq_true_eq] at h
    refine ⟨h.2, fun c hc => ?_⟩
    rcases List.mem_cons.mp hc with rfl | hc
    · exact h.1
    · exact Nat.lt_trans h.1 ((ih h.2).2 c hc)

/-- The converse of `Memory.wf_cons`. -/
theorem Memory.wf_of_cons {x : Host.Cell} {m : Memory} (hm : Memory.wf m = true) (h : ∀ c ∈ m, x.1 < c.1) :
    Memory.wf (x :: m) = true := by
  cases m with
  | nil => rfl
  | cons y m => simp [Memory.wf, hm, h y]

/-- An index below every listed one has no byte. -/
theorem Memory.read_of_lt {m : Memory} {a : Nat} (h : ∀ c ∈ m, a < c.1) : Memory.read m a = none := by
  induction m with
  | nil => rfl
  | cons x m ih =>
    obtain ⟨k, v⟩ := x
    have hk : a < k := h (k, v) (by simp)
    rw [Memory.read_cons, if_neg (by omega)]
    exact ih fun c hc => h c (by simp [hc])

/-- The written index reads the written byte, whatever the list. -/
@[simp] theorem Memory.read_write_same (m : Memory) (a : Nat) (v : Byte) :
    Memory.read (Memory.write m a v) a = some v := by
  induction m with
  | nil => simp [Memory.write, Memory.read]
  | cons x m ih =>
    obtain ⟨k, w⟩ := x
    simp only [Memory.write]
    split
    · simp [Memory.read]
    · split
      · simp [Memory.read]
      · rw [Memory.read_cons, if_neg (by omega), ih]

/-- Every other index reads as before, whatever the list. -/
theorem Memory.read_write_other (m : Memory) {a b : Nat} (v : Byte) (h : b ≠ a) :
    Memory.read (Memory.write m a v) b = Memory.read m b := by
  induction m with
  | nil => simp [Memory.write, Memory.read, Ne.symm h]
  | cons x m ih =>
    obtain ⟨k, w⟩ := x
    simp only [Memory.write]
    split
    · rw [Memory.read_cons, if_neg (Ne.symm h)]
    · split
      · subst_vars
        rw [Memory.read_cons, Memory.read_cons, if_neg (Ne.symm h), if_neg (Ne.symm h)]
      · rw [Memory.read_cons, Memory.read_cons, ih]

/-- What a write lists: the written index, and what was listed. -/
theorem Memory.mem_write {m : Memory} {a : Nat} {v : Byte} {c : Host.Cell} (h : c ∈ Memory.write m a v) :
    c = (a, v) ∨ c ∈ m := by
  induction m with
  | nil => simpa [Memory.write] using h
  | cons x m ih =>
    obtain ⟨k, w⟩ := x
    simp only [Memory.write] at h
    split at h
    · simpa using h
    · split at h
      · rcases List.mem_cons.mp h with rfl | h
        · exact .inl rfl
        · exact .inr (by simp [h])
      · rcases List.mem_cons.mp h with rfl | h
        · exact .inr (by simp)
        · exact (ih h).imp id (by simp_all)

/-- A write keeps the canonical form. -/
theorem Memory.wf_write {m : Memory} (h : Memory.wf m = true) (a : Nat) (v : Byte) :
    Memory.wf (Memory.write m a v) = true := by
  induction m with
  | nil => rfl
  | cons x m ih =>
    obtain ⟨k, w⟩ := x
    obtain ⟨hm, hlt⟩ := Memory.wf_cons h
    simp only [Memory.write]
    split
    · rename_i hak
      refine Memory.wf_of_cons h fun c hc => ?_
      rcases List.mem_cons.mp hc with rfl | hc
      · exact hak
      · exact Nat.lt_trans hak (hlt c hc)
    · split
      · subst_vars
        exact Memory.wf_of_cons hm hlt
      · refine Memory.wf_of_cons (ih hm) fun c hc => ?_
        rcases Memory.mem_write hc with rfl | hc
        · show k < a
          omega
        · exact hlt c hc

/-- In canonical form, memories that read alike are equal. -/
theorem Memory.ext_of_wf {m m' : Memory} (h : Memory.wf m = true) (h' : Memory.wf m' = true)
    (hr : ∀ a, Memory.read m a = Memory.read m' a) : m = m' := by
  induction m generalizing m' with
  | nil =>
    cases m' with
    | nil => rfl
    | cons y m' => have := hr y.1; simp [Memory.read] at this
  | cons x m ih =>
    obtain ⟨k, v⟩ := x
    cases m' with
    | nil => have := hr k; simp [Memory.read] at this
    | cons y m' =>
      obtain ⟨k', v'⟩ := y
      obtain ⟨hm, hlt⟩ := Memory.wf_cons h
      obtain ⟨hm', hlt'⟩ := Memory.wf_cons h'
      have hkk : k = k' := by
        rcases Nat.lt_trichotomy k k' with hlt1 | rfl | hgt
        · have := hr k
          rw [Memory.read_cons, if_pos rfl, Memory.read_cons, if_neg (by omega),
            Memory.read_of_lt fun c hc => Nat.lt_trans hlt1 (hlt' c hc)] at this
          cases this
        · rfl
        · have := hr k'
          rw [Memory.read_cons, if_neg (by omega), Memory.read_cons, if_pos rfl,
            Memory.read_of_lt fun c hc => Nat.lt_trans hgt (hlt c hc)] at this
          cases this
      subst hkk
      have hv : v = v' := by
        have := hr k
        rw [Memory.read_cons, Memory.read_cons, if_pos rfl, if_pos rfl] at this
        exact Option.some.inj this
      subst hv
      congr 1
      refine ih hm hm' fun a => ?_
      by_cases ha : k = a
      · subst ha
        rw [Memory.read_of_lt hlt, Memory.read_of_lt hlt']
      · have := hr a
        rwa [Memory.read_cons, Memory.read_cons, if_neg ha, if_neg ha] at this

/-- What a read of n bytes answers: exactly the bytes read one by one. -/
theorem rxbufFrom_eq_ok_iff (m : Memory) (i n : Nat) (vs : List Byte) :
    rxbufFrom m i n = .ok vs ↔ vs.length = n ∧ ∀ j < n, Memory.read m (i + j) = vs[j]? := by
  induction n generalizing i vs with
  | zero => cases vs <;> simp [rxbufFrom]
  | succ n ih =>
    simp only [rxbufFrom]
    cases hr : Memory.read m i with
    | none =>
      simp only [reduceCtorEq, false_iff, not_and]
      intro hl h
      have := h 0 (by omega)
      cases vs with
      | nil => simp at hl
      | cons v vs => simp [hr] at this
    | some v =>
      cases hf : rxbufFrom m (i + 1) n with
      | error f =>
        simp only [reduceCtorEq, false_iff, not_and]
        intro hl h
        cases vs with
        | nil => simp at hl
        | cons w vs =>
          have : rxbufFrom m (i + 1) n = .ok vs := (ih (i + 1) vs).mpr ⟨by simpa using hl, fun j hj => by
            have := h (j + 1) (by omega)
            simpa [Nat.add_assoc, Nat.add_comm 1 j] using this⟩
          rw [hf] at this
          cases this
      | ok us =>
        obtain ⟨hl, hu⟩ := (ih (i + 1) us).mp hf
        simp only [Except.ok.injEq]
        constructor
        · rintro rfl
          refine ⟨by simp [hl], fun j hj => ?_⟩
          cases j with
          | zero => simp [hr]
          | succ j =>
            have := hu j (by omega)
            simpa [Nat.add_assoc, Nat.add_comm 1 j] using this
        · rintro ⟨hl', h⟩
          cases vs with
          | nil => simp at hl'
          | cons w vs =>
            have h0 := h 0 (by omega)
            simp [hr] at h0
            have : rxbufFrom m (i + 1) n = .ok vs := (ih (i + 1) vs).mpr ⟨by simpa using hl', fun j hj => by
              have := h (j + 1) (by omega)
              simpa [Nat.add_assoc, Nat.add_comm 1 j] using this⟩
            rw [hf] at this
            cases this
            rw [h0]

/-- A body read succeeds exactly where every byte below L has been written. -/
theorem rxbufBody_ok_of_written {m : Memory} {L : Nat} (h : ∀ i < L, (Memory.read m i).isSome = true) :
    ∃ body, rxbufBody m L = .ok body ∧ body.length = L := by
  suffices ∀ n i, (∀ j < n, (Memory.read m (i + j)).isSome = true) →
      ∃ vs, rxbufFrom m i n = .ok vs ∧ vs.length = n by
    exact this L 0 (by simpa using h)
  intro n
  induction n with
  | zero => exact fun i _ => ⟨[], rfl, rfl⟩
  | succ n ih =>
    intro i hi
    obtain ⟨v, hv⟩ := Option.isSome_iff_exists.mp (hi 0 (by omega))
    obtain ⟨vs, hvs, hl⟩ := ih (i + 1) fun j hj => by
      have := hi (j + 1) (by omega)
      simpa [Nat.add_assoc, Nat.add_comm 1 j] using this
    refine ⟨v :: vs, ?_, by simp [hl]⟩
    simp only [Nat.add_zero] at hv
    simp [rxbufFrom, hv, hvs]

end Sys2Proof.Machine
end

