-- ==== Sys2Proof/Laws/State.lean ====
section
/-! SUPPORT. For each operation that updates State, what each field is afterwards: one lemma a field, true by rfl. -/

namespace Sys2Proof.Machine

/-! `respond` (R42: only the response log) -/

@[simp] theorem respond_rxbuf (r : Response) (s : State) : (respond r s).rxbuf = s.rxbuf := rfl
@[simp] theorem respond_rxidx (r : Response) (s : State) : (respond r s).rxidx = s.rxidx := rfl
@[simp] theorem respond_escp (r : Response) (s : State) : (respond r s).escp = s.escp := rfl
@[simp] theorem respond_escerr (r : Response) (s : State) : (respond r s).escerr = s.escerr := rfl
@[simp] theorem respond_wstate (r : Response) (s : State) : (respond r s).wstate = s.wstate := rfl
@[simp] theorem respond_expSrc (r : Response) (s : State) : (respond r s).expSrc = s.expSrc := rfl
@[simp] theorem respond_expCmd (r : Response) (s : State) : (respond r s).expCmd = s.expCmd := rfl
@[simp] theorem respond_resStatus (r : Response) (s : State) : (respond r s).resStatus = s.resStatus := rfl
@[simp] theorem respond_resMsg (r : Response) (s : State) : (respond r s).resMsg = s.resMsg := rfl
@[simp] theorem respond_rxq (r : Response) (s : State) : (respond r s).rxq = s.rxq := rfl
@[simp] theorem respond_txlog (r : Response) (s : State) : (respond r s).txlog = s.txlog := rfl
@[simp] theorem respond_responses (r : Response) (s : State) : (respond r s).responses = s.responses ++ [r.bytes] := rfl
@[simp] theorem respond_agenda (r : Response) (s : State) : (respond r s).agenda = s.agenda := rfl

/-! `emitTx` (R36) -/

@[simp] theorem emitTx_rxbuf (bs : List Byte) (s : State) : (emitTx bs s).rxbuf = s.rxbuf := rfl
@[simp] theorem emitTx_rxidx (bs : List Byte) (s : State) : (emitTx bs s).rxidx = s.rxidx := rfl
@[simp] theorem emitTx_escp (bs : List Byte) (s : State) : (emitTx bs s).escp = s.escp := rfl
@[simp] theorem emitTx_escerr (bs : List Byte) (s : State) : (emitTx bs s).escerr = s.escerr := rfl
@[simp] theorem emitTx_wstate (bs : List Byte) (s : State) : (emitTx bs s).wstate = s.wstate := rfl
@[simp] theorem emitTx_expSrc (bs : List Byte) (s : State) : (emitTx bs s).expSrc = s.expSrc := rfl
@[simp] theorem emitTx_expCmd (bs : List Byte) (s : State) : (emitTx bs s).expCmd = s.expCmd := rfl
@[simp] theorem emitTx_resStatus (bs : List Byte) (s : State) : (emitTx bs s).resStatus = s.resStatus := rfl
@[simp] theorem emitTx_resMsg (bs : List Byte) (s : State) : (emitTx bs s).resMsg = s.resMsg := rfl
@[simp] theorem emitTx_rxq (bs : List Byte) (s : State) : (emitTx bs s).rxq = s.rxq := rfl
@[simp] theorem emitTx_txlog (bs : List Byte) (s : State) : (emitTx bs s).txlog = s.txlog ++ bs := rfl
@[simp] theorem emitTx_responses (bs : List Byte) (s : State) : (emitTx bs s).responses = s.responses := rfl
@[simp] theorem emitTx_agenda (bs : List Byte) (s : State) : (emitTx bs s).agenda = s.agenda := rfl

/-! `feedRx` (R37) -/

@[simp] theorem feedRx_rxbuf (bs : List Byte) (s : State) : (feedRx bs s).rxbuf = s.rxbuf := rfl
@[simp] theorem feedRx_rxidx (bs : List Byte) (s : State) : (feedRx bs s).rxidx = s.rxidx := rfl
@[simp] theorem feedRx_escp (bs : List Byte) (s : State) : (feedRx bs s).escp = s.escp := rfl
@[simp] theorem feedRx_escerr (bs : List Byte) (s : State) : (feedRx bs s).escerr = s.escerr := rfl
@[simp] theorem feedRx_wstate (bs : List Byte) (s : State) : (feedRx bs s).wstate = s.wstate := rfl
@[simp] theorem feedRx_expSrc (bs : List Byte) (s : State) : (feedRx bs s).expSrc = s.expSrc := rfl
@[simp] theorem feedRx_expCmd (bs : List Byte) (s : State) : (feedRx bs s).expCmd = s.expCmd := rfl
@[simp] theorem feedRx_resStatus (bs : List Byte) (s : State) : (feedRx bs s).resStatus = s.resStatus := rfl
@[simp] theorem feedRx_resMsg (bs : List Byte) (s : State) : (feedRx bs s).resMsg = s.resMsg := rfl
@[simp] theorem feedRx_rxq (bs : List Byte) (s : State) : (feedRx bs s).rxq = s.rxq ++ bs := rfl
@[simp] theorem feedRx_txlog (bs : List Byte) (s : State) : (feedRx bs s).txlog = s.txlog := rfl
@[simp] theorem feedRx_responses (bs : List Byte) (s : State) : (feedRx bs s).responses = s.responses := rfl
@[simp] theorem feedRx_agenda (bs : List Byte) (s : State) : (feedRx bs s).agenda = s.agenda := rfl

/-! `endWait` (R143, R145) -/

@[simp] theorem endWait_rxbuf (st : Status) (m : Option Message) (s : State) : (endWait st m s).rxbuf = s.rxbuf := rfl
@[simp] theorem endWait_rxidx (st : Status) (m : Option Message) (s : State) : (endWait st m s).rxidx = s.rxidx := rfl
@[simp] theorem endWait_escp (st : Status) (m : Option Message) (s : State) : (endWait st m s).escp = s.escp := rfl
@[simp] theorem endWait_escerr (st : Status) (m : Option Message) (s : State) : (endWait st m s).escerr = s.escerr := rfl
@[simp] theorem endWait_wstate (st : Status) (m : Option Message) (s : State) : (endWait st m s).wstate = .done := rfl
@[simp] theorem endWait_expSrc (st : Status) (m : Option Message) (s : State) : (endWait st m s).expSrc = s.expSrc := rfl
@[simp] theorem endWait_expCmd (st : Status) (m : Option Message) (s : State) : (endWait st m s).expCmd = s.expCmd := rfl
@[simp] theorem endWait_resStatus (st : Status) (m : Option Message) (s : State) : (endWait st m s).resStatus = st := rfl
@[simp] theorem endWait_resMsg (st : Status) (m : Option Message) (s : State) : (endWait st m s).resMsg = m := rfl
@[simp] theorem endWait_rxq (st : Status) (m : Option Message) (s : State) : (endWait st m s).rxq = s.rxq := rfl
@[simp] theorem endWait_txlog (st : Status) (m : Option Message) (s : State) : (endWait st m s).txlog = s.txlog := rfl
@[simp] theorem endWait_responses (st : Status) (m : Option Message) (s : State) : (endWait st m s).responses = s.responses := rfl
@[simp] theorem endWait_agenda (st : Status) (m : Option Message) (s : State) : (endWait st m s).agenda = s.agenda := rfl

/-! `armWait` (R142) -/

@[simp] theorem armWait_rxbuf (src cmd : Byte) (s : State) : (armWait src cmd s).rxbuf = s.rxbuf := rfl
@[simp] theorem armWait_rxidx (src cmd : Byte) (s : State) : (armWait src cmd s).rxidx = s.rxidx := rfl
@[simp] theorem armWait_escp (src cmd : Byte) (s : State) : (armWait src cmd s).escp = s.escp := rfl
@[simp] theorem armWait_escerr (src cmd : Byte) (s : State) : (armWait src cmd s).escerr = s.escerr := rfl
@[simp] theorem armWait_wstate (src cmd : Byte) (s : State) : (armWait src cmd s).wstate = .waiting := rfl
@[simp] theorem armWait_expSrc (src cmd : Byte) (s : State) : (armWait src cmd s).expSrc = src := rfl
@[simp] theorem armWait_expCmd (src cmd : Byte) (s : State) : (armWait src cmd s).expCmd = cmd := rfl
@[simp] theorem armWait_resStatus (src cmd : Byte) (s : State) : (armWait src cmd s).resStatus = .ok := rfl
@[simp] theorem armWait_resMsg (src cmd : Byte) (s : State) : (armWait src cmd s).resMsg = none := rfl
@[simp] theorem armWait_rxq (src cmd : Byte) (s : State) : (armWait src cmd s).rxq = s.rxq := rfl
@[simp] theorem armWait_txlog (src cmd : Byte) (s : State) : (armWait src cmd s).txlog = s.txlog := rfl
@[simp] theorem armWait_responses (src cmd : Byte) (s : State) : (armWait src cmd s).responses = s.responses := rfl
@[simp] theorem armWait_agenda (src cmd : Byte) (s : State) : (armWait src cmd s).agenda = s.agenda := rfl

/-! `resetEvent` (R169) -/

@[simp] theorem resetEvent_rxbuf (s : State) : (resetEvent s).rxbuf = s.rxbuf := rfl
@[simp] theorem resetEvent_rxidx (s : State) : (resetEvent s).rxidx = 0 := rfl
@[simp] theorem resetEvent_escp (s : State) : (resetEvent s).escp = false := rfl
@[simp] theorem resetEvent_escerr (s : State) : (resetEvent s).escerr = false := rfl
@[simp] theorem resetEvent_wstate (s : State) : (resetEvent s).wstate = .idle := rfl
@[simp] theorem resetEvent_expSrc (s : State) : (resetEvent s).expSrc = 0x00#8 := rfl
@[simp] theorem resetEvent_expCmd (s : State) : (resetEvent s).expCmd = 0x00#8 := rfl
@[simp] theorem resetEvent_resStatus (s : State) : (resetEvent s).resStatus = .ok := rfl
@[simp] theorem resetEvent_resMsg (s : State) : (resetEvent s).resMsg = none := rfl
@[simp] theorem resetEvent_rxq (s : State) : (resetEvent s).rxq = s.rxq := rfl
@[simp] theorem resetEvent_txlog (s : State) : (resetEvent s).txlog = s.txlog := rfl
@[simp] theorem resetEvent_responses (s : State) : (resetEvent s).responses = s.responses := rfl
@[simp] theorem resetEvent_agenda (s : State) : (resetEvent s).agenda = s.agenda := rfl

/-! `asmSof` (R112) -/

@[simp] theorem asmSof_rxbuf (s : State) : (asmSof s).rxbuf = s.rxbuf := rfl
@[simp] theorem asmSof_rxidx (s : State) : (asmSof s).rxidx = 0 := rfl
@[simp] theorem asmSof_escp (s : State) : (asmSof s).escp = false := rfl
@[simp] theorem asmSof_escerr (s : State) : (asmSof s).escerr = false := rfl
@[simp] theorem asmSof_wstate (s : State) : (asmSof s).wstate = s.wstate := rfl
@[simp] theorem asmSof_expSrc (s : State) : (asmSof s).expSrc = s.expSrc := rfl
@[simp] theorem asmSof_expCmd (s : State) : (asmSof s).expCmd = s.expCmd := rfl
@[simp] theorem asmSof_resStatus (s : State) : (asmSof s).resStatus = s.resStatus := rfl
@[simp] theorem asmSof_resMsg (s : State) : (asmSof s).resMsg = s.resMsg := rfl
@[simp] theorem asmSof_rxq (s : State) : (asmSof s).rxq = s.rxq := rfl
@[simp] theorem asmSof_txlog (s : State) : (asmSof s).txlog = s.txlog := rfl
@[simp] theorem asmSof_responses (s : State) : (asmSof s).responses = s.responses := rfl
@[simp] theorem asmSof_agenda (s : State) : (asmSof s).agenda = s.agenda := rfl

/-! `asmEsc` (R114) -/

@[simp] theorem asmEsc_rxbuf (s : State) : (asmEsc s).rxbuf = s.rxbuf := rfl
@[simp] theorem asmEsc_rxidx (s : State) : (asmEsc s).rxidx = s.rxidx := rfl
@[simp] theorem asmEsc_escp (s : State) : (asmEsc s).escp = true := rfl
@[simp] theorem asmEsc_escerr (s : State) : (asmEsc s).escerr = (s.escerr || s.escp) := rfl
@[simp] theorem asmEsc_wstate (s : State) : (asmEsc s).wstate = s.wstate := rfl
@[simp] theorem asmEsc_expSrc (s : State) : (asmEsc s).expSrc = s.expSrc := rfl
@[simp] theorem asmEsc_expCmd (s : State) : (asmEsc s).expCmd = s.expCmd := rfl
@[simp] theorem asmEsc_resStatus (s : State) : (asmEsc s).resStatus = s.resStatus := rfl
@[simp] theorem asmEsc_resMsg (s : State) : (asmEsc s).resMsg = s.resMsg := rfl
@[simp] theorem asmEsc_rxq (s : State) : (asmEsc s).rxq = s.rxq := rfl
@[simp] theorem asmEsc_txlog (s : State) : (asmEsc s).txlog = s.txlog := rfl
@[simp] theorem asmEsc_responses (s : State) : (asmEsc s).responses = s.responses := rfl
@[simp] theorem asmEsc_agenda (s : State) : (asmEsc s).agenda = s.agenda := rfl

/-! `illegalCommand` (R149) -/

@[simp] theorem illegalCommand_rxbuf (s : State) : (illegalCommand s).rxbuf = s.rxbuf := rfl
@[simp] theorem illegalCommand_rxidx (s : State) : (illegalCommand s).rxidx = s.rxidx := rfl
@[simp] theorem illegalCommand_escp (s : State) : (illegalCommand s).escp = s.escp := rfl
@[simp] theorem illegalCommand_escerr (s : State) : (illegalCommand s).escerr = s.escerr := rfl
@[simp] theorem illegalCommand_wstate (s : State) : (illegalCommand s).wstate = s.wstate := rfl
@[simp] theorem illegalCommand_expSrc (s : State) : (illegalCommand s).expSrc = s.expSrc := rfl
@[simp] theorem illegalCommand_expCmd (s : State) : (illegalCommand s).expCmd = s.expCmd := rfl
@[simp] theorem illegalCommand_resStatus (s : State) : (illegalCommand s).resStatus = s.resStatus := rfl
@[simp] theorem illegalCommand_resMsg (s : State) : (illegalCommand s).resMsg = s.resMsg := rfl
@[simp] theorem illegalCommand_rxq (s : State) : (illegalCommand s).rxq = s.rxq := rfl
@[simp] theorem illegalCommand_txlog (s : State) : (illegalCommand s).txlog = s.txlog := rfl
@[simp] theorem illegalCommand_responses (s : State) : (illegalCommand s).responses = s.responses ++ [[0x0C#8]] := rfl
@[simp] theorem illegalCommand_agenda (s : State) : (illegalCommand s).agenda = s.agenda := rfl

end Sys2Proof.Machine
end

