-- ==== Sys2Proof/Laws/Ops.lean ====
section
/-! SUPPORT. For each shared operation, one lemma that says once what it can do; proofs cite these instead of unfolding. -/

namespace Sys2Proof.Machine

/-! ### Fields of 16 bits -/

/-- A 16-bit field read back from its two bytes (R52, R54). -/
@[simp] theorem be16_hi_lo (c : Word16) : be16 (hi c) (lo c) = c := by
  ext i hi'
  simp only [be16, zext16, hi, lo, BitVec.getElem_or, BitVec.getElem_shiftLeft, BitVec.getElem_setWidth,
    BitVec.getLsbD_extractLsb']
  rcases Nat.lt_or_ge i 8 with h | h
  · simp [h, BitVec.getLsbD_eq_getElem hi']
  · have : i - 8 < 8 := by omega
    simp [Nat.not_lt.mpr h, this, show 8 + (i - 8) = i by omega, BitVec.getLsbD_eq_getElem hi']

/-- The two bytes of a field are those it was made of. -/
@[simp] theorem hi_be16 (h l : Byte) : hi (be16 h l) = h := by
  ext i hi'
  simp only [be16, zext16, hi, BitVec.getElem_extractLsb', BitVec.getLsbD_or, BitVec.getLsbD_shiftLeft,
    BitVec.getLsbD_setWidth]
  simp [show 8 + i < 16 by omega, show ¬ (8 + i < 8) by omega, BitVec.getLsbD_eq_getElem hi']
  intro
  omega

@[simp] theorem lo_be16 (h l : Byte) : lo (be16 h l) = l := by
  ext i hi'
  simp only [be16, zext16, lo, BitVec.getElem_extractLsb', BitVec.getLsbD_or, BitVec.getLsbD_shiftLeft,
    BitVec.getLsbD_setWidth]
  simp [hi', show i < 16 by omega]

/-- A length below 2^16 survives its field (R77). -/
theorem be16_len16_toNat {n : Nat} (h : n ≤ maxOperand) :
    (be16 (hi (BitVec.ofNat 16 n)) (lo (BitVec.ofNat 16 n))).toNat = n := by
  rw [be16_hi_lo, BitVec.toNat_ofNat]
  exact Nat.mod_eq_of_lt (by unfold maxOperand at h; omega)

@[simp] theorem u16Bytes_length (c : Word16) : (u16Bytes c).length = 2 := rfl

@[simp] theorem len16_length (n : Nat) : (len16 n).length = 2 := rfl

@[simp] theorem len32_length (n : Nat) : (len32 n).length = 4 := rfl

/-! ### Reserved bytes and receive classes -/

theorem isReserved_iff (b : Byte) :
    isReserved b = true ↔ b = escByte ∨ b = ackByte ∨ b = sofByte ∨ b = eofByte := by
  simp [isReserved, or_assoc]

@[simp] theorem escTransform_escTransform (b : Byte) : escTransform (escTransform b) = b := by
  simp [escTransform]

theorem rxClass_eq_data_iff (b : Byte) :
    rxClass b = .data ↔ b ≠ sofByte ∧ b ≠ eofByte ∧ b ≠ escByte := by
  unfold rxClass
  split
  · simp_all
  · split
    · simp_all
    · split <;> simp_all

@[simp] theorem decodeByte_sof : decodeByte sofByte = .rxSof := rfl

@[simp] theorem decodeByte_eof : decodeByte eofByte = .rxEof := rfl

@[simp] theorem decodeByte_esc : decodeByte escByte = .rxEsc := rfl

theorem decodeByte_data {b : Byte} (h : rxClass b = .data) : decodeByte b = .rxData b := by
  simp [decodeByte, h]

/-! ### Stuffing and destuffing, one interior byte at a time -/

/-- An interior byte is stuffed on its own (R100); the last byte, which follows, is not. -/
theorem stuffTail_cons (b : Byte) {rest : List Byte} (h : rest ≠ []) :
    stuffTail (b :: rest) =
      if isReserved b then (escByte :: escTransform b :: (stuffTail rest).1, (stuffTail rest).2 + 1)
      else (b :: (stuffTail rest).1, (stuffTail rest).2) := by
  cases rest with
  | nil => exact absurd rfl h
  | cons c rest => rfl

/-- A raw interior byte is copied (R102). -/
theorem destuffTail_raw (i : Nat) {b : Byte} {rest : List Byte} (hb : b ≠ escByte) (h : rest ≠ []) :
    destuffTail i (b :: rest) =
      match destuffTail (i + 1) rest with
      | .ok u => .ok (b :: u)
      | .error e => .error e := by
  match rest, h with
  | [c], _ => exact if_neg hb
  | c :: d :: rest, _ => exact if_neg hb

/-- An escape pair of a reserved value is that value (R102). -/
theorem destuffTail_pair (i : Nat) {c : Byte} {rest : List Byte} (hc : isReserved (escTransform c) = true)
    (h : rest ≠ []) :
    destuffTail i (escByte :: c :: rest) =
      match destuffTail (i + 2) rest with
      | .ok u => .ok (escTransform c :: u)
      | .error e => .error e := by
  match rest, h with
  | d :: rest, _ => exact (if_pos rfl).trans (if_pos hc)

/-! ### The receive assembler -/

/-- What `store` can do: it stores at RXIDX, or drops the byte (R116). -/
theorem store_cases (cfg : Config) (v : Byte) (s : State) :
    (s.rxidx + 1 < cfg.rxCap ∧
      store cfg v s = { s with rxbuf := Memory.write s.rxbuf s.rxidx v, rxidx := s.rxidx + 1 }) ∨
    (cfg.rxCap ≤ s.rxidx + 1 ∧ store cfg v s = s) := by
  rcases Nat.lt_or_ge (s.rxidx + 1) cfg.rxCap with h | h
  · exact .inl ⟨h, by simp [store, h]⟩
  · exact .inr ⟨h, by simp [store, Nat.not_lt.mpr h]⟩

/-- RX_EOF on the assembler, where RXIDX is in range (R113). -/
theorem asmEof_of_lt {cfg : Config} {s : State} (h : s.rxidx < cfg.rxCap) :
    asmEof cfg s = .ok ({ s with rxbuf := Memory.write s.rxbuf s.rxidx 0x00#8, rxidx := 0, escp := false,
                                 escerr := false },
      .frameComplete s.rxidx (eofStatus s.escp s.escerr)) := by
  simp [asmEof, rxbufWrite, h, escpAfter]

/-- RX_EOF on the assembler, where RXIDX is no index of RXBUF. -/
theorem asmEof_of_ge {cfg : Config} {s : State} (h : cfg.rxCap ≤ s.rxidx) :
    asmEof cfg s = .error (.rxbufOutOfRange s.rxidx) := by
  simp [asmEof, rxbufWrite, Nat.not_lt.mpr h]

/-- The meaning of a receive byte is its `asm_step` with the event consumed (R111, R117). -/
theorem exec_decodeByte (b : Byte) (s : State) :
    exec (decodeByte b) s = consumeEvent config (asmStep config b s) := by
  unfold decodeByte asmStep
  cases rxClass b <;> rfl

/-- What frame completion can do (R145). -/
theorem frameComplete_cases {cfg : Config} {L : Nat} {st : Status} {s t : State}
    (h : frameComplete cfg L st s = .ok t) :
    (st ≠ .ok ∧ t = endWait st none s) ∨
    ∃ body, st = .ok ∧ rxbufBody s.rxbuf L = .ok body ∧
      ((∃ e, parse cfg (rebuildFrame body) = .error e ∧ t = endWait e none s) ∨
       (∃ m, parse cfg (rebuildFrame body) = .ok m ∧ matchesWait cfg m s = true ∧ t = endWait .ok (some m) s) ∨
       (∃ m, parse cfg (rebuildFrame body) = .ok m ∧ matchesWait cfg m s = false ∧ t = s)) := by
  unfold frameComplete at h
  split at h
  · rename_i hst
    cases h
    exact .inl ⟨hst, rfl⟩
  · rename_i hst
    split at h
    · cases h
    · rename_i body hb
      cases h
      refine .inr ⟨body, not_not.mp hst, hb, ?_⟩
      cases hp : parse cfg (rebuildFrame body) with
      | error e => exact .inl ⟨e, rfl, rfl⟩
      | ok m =>
        cases hm : matchesWait cfg m s
        · exact .inr (.inr ⟨m, rfl, hm, by simp [completeParsed, hm]⟩)
        · exact .inr (.inl ⟨m, rfl, hm, by simp [completeParsed, hm]⟩)

/-- What `parse` answers when it accepts (R129). -/
theorem parse_ok {cfg : Config} {f : List Byte} {m : Message} (h : parse cfg f = .ok m) :
    overhead ≤ f.length ∧ m.len.toNat = f.length ∧ m.payload = slice f headerLen (f.length - 3) ∧
      m.dest = byteAt f 1 ∧ m.src = byteAt f 3 ∧ m.cmd = byteAt f 4 := by
  unfold parse at h
  split at h
  · cases h
  · split at h
    · cases h
    · rename_i hlen
      split at h
      · cases h
      · split at h
        · cases h
        · split at h
          · cases h
          · rename_i ho
            cases h
            simp only [not_or, not_not] at hlen
            exact ⟨by omega, hlen.2, rfl, rfl, rfl, rfl⟩

/-! ### Decoding a command string -/

theorem operandsS_ok {k : List Byte → Instr} {l : List Byte} {i : Instr} (h : operandsS k l = .ok i) :
    ∃ hb lb data, l = hb :: lb :: data ∧ data.length = (be16 hb lb).toNat ∧ i = k data := by
  unfold operandsS at h
  split at h
  · rename_i hb lb data
    split at h
    · rename_i hl
      cases h
      exact ⟨hb, lb, data, rfl, hl, rfl⟩
    · cases h
  · cases h

theorem operandsDCS_ok {k : Byte → Byte → List Byte → Instr} {l : List Byte} {i : Instr}
    (h : operandsDCS k l = .ok i) :
    ∃ d c hb lb data, l = d :: c :: hb :: lb :: data ∧ data.length = (be16 hb lb).toNat ∧ i = k d c data := by
  unfold operandsDCS at h
  split at h
  · rename_i d c hb lb data
    split at h
    · rename_i hl
      cases h
      exact ⟨d, c, hb, lb, data, rfl, hl, rfl⟩
    · cases h
  · cases h

theorem operandsCU_ok {k : Word16 → Byte → Instr} {l : List Byte} {i : Instr} (h : operandsCU k l = .ok i) :
    ∃ hb lb b, l = [hb, lb, b] ∧ i = k (be16 hb lb) b := by
  unfold operandsCU at h
  split at h
  · rename_i hb lb b
    cases h
    exact ⟨hb, lb, b, rfl, rfl⟩
  · cases h

theorem operandsA2_ok {k : Byte → Byte → Instr} {l : List Byte} {i : Instr} (h : operandsA2 k l = .ok i) :
    ∃ a b, l = [a, b] ∧ i = k a b := by
  unfold operandsA2 at h
  split at h
  · rename_i a b
    cases h
    exact ⟨a, b, rfl, rfl⟩
  · cases h

theorem operandsN_ok {j : Instr} {l : List Byte} {i : Instr} (h : operandsN j l = .ok i) : l = [] ∧ i = j := by
  unfold operandsN at h
  split at h
  · cases h
    exact ⟨rfl, rfl⟩
  · cases h

/-- What a decoded command string looks like: its opcode's row, and the operand form of the row's format (R79, R80). -/
theorem decodeCommand_ok {op : Byte} {rest : List Byte} {i : Instr} (h : decodeCommand (op :: rest) = .ok i) :
    (op = 0x01#8 ∧ operandsCU .crcUpdate rest = .ok i) ∨ (op = 0x02#8 ∧ operandsS .crcCompute rest = .ok i) ∨
    (op = 0x03#8 ∧ operandsS .stuff rest = .ok i) ∨ (op = 0x04#8 ∧ operandsS .destuff rest = .ok i) ∨
    (op = 0x05#8 ∧ operandsDCS .build rest = .ok i) ∨ (op = 0x06#8 ∧ operandsS .parse rest = .ok i) ∨
    (op = 0x07#8 ∧ operandsDCS .transmit rest = .ok i) ∨ (op = 0x08#8 ∧ operandsA2 .recvArm rest = .ok i) ∨
    (op = 0x09#8 ∧ operandsN .recvAbort rest = .ok i) ∨ (op = 0x0A#8 ∧ operandsN .recvPoll rest = .ok i) := by
  simp only [decodeCommand] at h
  split at h
  · exact .inl ⟨‹_›, h⟩
  · split at h
    · exact .inr (.inl ⟨‹_›, h⟩)
    · split at h
      · exact .inr (.inr (.inl ⟨‹_›, h⟩))
      · split at h
        · exact .inr (.inr (.inr (.inl ⟨‹_›, h⟩)))
        · split at h
          · exact .inr (.inr (.inr (.inr (.inl ⟨‹_›, h⟩))))
          · split at h
            · exact .inr (.inr (.inr (.inr (.inr (.inl ⟨‹_›, h⟩)))))
            · split at h
              · exact .inr (.inr (.inr (.inr (.inr (.inr (.inl ⟨‹_›, h⟩))))))
              · split at h
                · exact .inr (.inr (.inr (.inr (.inr (.inr (.inr (.inl ⟨‹_›, h⟩)))))))
                · split at h
                  · exact .inr (.inr (.inr (.inr (.inr (.inr (.inr (.inr (.inl ⟨‹_›, h⟩))))))))
                  · split at h
                    · exact .inr (.inr (.inr (.inr (.inr (.inr (.inr (.inr (.inr ⟨‹_›, h⟩))))))))
                    · cases h

/-- Where each operand form builds host commands, so does what it accepts: formats CU, S, DCS, A2 and N of R79. -/
theorem operandsCU_isCommand {k : Word16 → Byte → Instr} {l : List Byte} {i : Instr}
    (hk : ∀ c b, (k c b).isCommand = true) (h : operandsCU k l = .ok i) : i.isCommand = true := by
  obtain ⟨_, _, _, -, rfl⟩ := operandsCU_ok h
  apply hk

theorem operandsS_isCommand {k : List Byte → Instr} {l : List Byte} {i : Instr}
    (hk : ∀ d, (k d).isCommand = true) (h : operandsS k l = .ok i) : i.isCommand = true := by
  obtain ⟨_, _, data, -, -, rfl⟩ := operandsS_ok h
  exact hk data

theorem operandsDCS_isCommand {k : Byte → Byte → List Byte → Instr} {l : List Byte} {i : Instr}
    (hk : ∀ d c p, (k d c p).isCommand = true) (h : operandsDCS k l = .ok i) : i.isCommand = true := by
  obtain ⟨d, c, _, _, payload, -, -, rfl⟩ := operandsDCS_ok h
  exact hk d c payload

theorem operandsA2_isCommand {k : Byte → Byte → Instr} {l : List Byte} {i : Instr}
    (hk : ∀ a b, (k a b).isCommand = true) (h : operandsA2 k l = .ok i) : i.isCommand = true := by
  obtain ⟨a, b, -, rfl⟩ := operandsA2_ok h
  exact hk a b

theorem operandsN_isCommand {j : Instr} {l : List Byte} {i : Instr}
    (hj : j.isCommand = true) (h : operandsN j l = .ok i) : i.isCommand = true :=
  (operandsN_ok h).2 ▸ hj

/-- A command string decodes to a host command: each opcode of R80 is of one of the five formats. -/
theorem decodeCommand_isCommand {op : Byte} {rest : List Byte} {i : Instr}
    (h : decodeCommand (op :: rest) = .ok i) : i.isCommand = true := by
  simp only [decodeCommand] at h
  repeat' split at h
  all_goals first
    | exact operandsCU_isCommand (fun _ _ => rfl) h
    | exact operandsS_isCommand (fun _ => rfl) h
    | exact operandsDCS_isCommand (fun _ _ _ => rfl) h
    | exact operandsA2_isCommand (fun _ _ => rfl) h
    | exact operandsN_isCommand rfl h
    | cases h

/-! ### A step -/

/-- What one step can do, by the head of the agenda: nothing, reset, feed, a skipped receive turn, a received byte's
meaning, an illegal command, or a command's meaning. -/
theorem step_next_cases {s t : State} (h : step s = .next t) :
    (s.agenda = [] ∧ t = s) ∨
    ∃ e ag, s.agenda = e :: ag ∧
      ((e = .reset ∧ t = resetEvent { s with agenda := ag }) ∨
       (∃ bs, e = .feed bs ∧ t = feedRx bs { s with agenda := ag }) ∨
       (e = .receive ∧ receiveEnabled s = false ∧ t = { s with agenda := ag }) ∨
       (∃ b q, e = .receive ∧ s.wstate = .waiting ∧ s.rxq = b :: q ∧
          exec (decodeByte b) { s with agenda := ag, rxq := q } = .next t) ∨
       (∃ op rest err, e = .host op rest ∧ decodeCommand (op :: rest) = .error err ∧
          t = illegalCommand { s with agenda := ag }) ∨
       (∃ op rest i, e = .host op rest ∧ decodeCommand (op :: rest) = .ok i ∧
          exec i { s with agenda := ag } = .next t)) := by
  unfold step fetch at h
  cases hag : s.agenda with
  | nil =>
    rw [hag] at h
    cases h
    exact .inl ⟨rfl, rfl⟩
  | cons e ag =>
    refine .inr ⟨e, ag, rfl, ?_⟩
    rw [hag] at h
    cases e with
    | reset =>
      cases h
      exact .inl ⟨rfl, rfl⟩
    | feed bs =>
      cases h
      exact .inr (.inl ⟨bs, rfl, rfl⟩)
    | host op rest =>
      simp only [fetchEvent, decode] at h
      cases hd : decodeCommand (op :: rest) with
      | error err =>
        rw [hd] at h
        cases h
        exact .inr (.inr (.inr (.inr (.inl ⟨op, rest, err, rfl, hd, rfl⟩))))
      | ok i =>
        rw [hd] at h
        exact .inr (.inr (.inr (.inr (.inr ⟨op, rest, i, rfl, hd, h⟩))))
    | receive =>
      have hen : receiveEnabled { s with agenda := ag } = receiveEnabled s := rfl
      simp only [fetchEvent, fetchByte, hen] at h
      cases he : receiveEnabled s with
      | false =>
        simp only [he] at h
        cases h
        exact .inr (.inr (.inl ⟨rfl, rfl, rfl⟩))
      | true =>
        simp only [he, if_true] at h
        cases hq : s.rxq with
        | nil => simp [receiveEnabled, hq] at he
        | cons b q =>
          simp only [takeRx, hq, decode] at h
          have hw : s.wstate = .waiting := by
            simp [receiveEnabled] at he
            exact he.2
          exact .inr (.inr (.inr (.inl ⟨b, q, rfl, hw, rfl, h⟩)))

end Sys2Proof.Machine
end

