-- ==== Sys2Proof/Laws/PerInstr.lean ====
section
/-! SUPPORT. The per-instruction family of LAWS.json: TableRow, that the first byte of a well-formed instruction's
encoding is one its row of spec/opcode_table.json admits. -/

namespace Sys2Proof.Laws

open Sys2Proof Sys2Proof.Machine

/-- The columns match, mask and excludes of a row of spec/opcode_table.json. -/
structure Row where
  value : Byte
  mask : Byte
  excludes : List Byte
deriving DecidableEq, Repr

/-- The row of each instruction, written out from spec/opcode_table.json. -/
def rowOf : Instr → Row
  | .crcUpdate _ _ => ⟨0x01#8, 0xFF#8, []⟩
  | .crcCompute _ => ⟨0x02#8, 0xFF#8, []⟩
  | .stuff _ => ⟨0x03#8, 0xFF#8, []⟩
  | .destuff _ => ⟨0x04#8, 0xFF#8, []⟩
  | .build _ _ _ => ⟨0x05#8, 0xFF#8, []⟩
  | .parse _ => ⟨0x06#8, 0xFF#8, []⟩
  | .transmit _ _ _ => ⟨0x07#8, 0xFF#8, []⟩
  | .recvArm _ _ => ⟨0x08#8, 0xFF#8, []⟩
  | .recvAbort => ⟨0x09#8, 0xFF#8, []⟩
  | .recvPoll => ⟨0x0A#8, 0xFF#8, []⟩
  | .rxSof => ⟨0xE2#8, 0xFF#8, []⟩
  | .rxEof => ⟨0xE3#8, 0xFF#8, []⟩
  | .rxEsc => ⟨0xE0#8, 0xFF#8, []⟩
  | .rxData _ => ⟨0x00#8, 0x00#8, [0xE0#8, 0xE2#8, 0xE3#8]⟩

/-- Whether a row admits a byte. -/
def Row.admits (r : Row) (b : Byte) : Prop := b &&& r.mask = r.value ∧ b ∉ r.excludes

/-- The first byte of an input, which selects its row (R80, R75). -/
def leadByte : Input → Option Byte
  | .command c => c.head?
  | .received b => some b

/-- The first byte of a well-formed instruction's encoding is admitted by its row. -/
def TableRow.Statement (i : Instr) : Prop :=
  i.wf = true → ∃ b, leadByte (encode i) = some b ∧ (rowOf i).admits b

theorem TableRow.crcUpdate (crcIn : Word16) (byte : Byte) : Statement (.crcUpdate crcIn byte) :=
  fun _ => ⟨_, rfl, by simp [rowOf], by simp [rowOf]⟩

theorem TableRow.crcCompute (data : List Byte) : Statement (.crcCompute data) :=
  fun _ => ⟨_, rfl, by simp [rowOf], by simp [rowOf]⟩

theorem TableRow.stuff (data : List Byte) : Statement (.stuff data) :=
  fun _ => ⟨_, rfl, by simp [rowOf], by simp [rowOf]⟩

theorem TableRow.destuff (data : List Byte) : Statement (.destuff data) :=
  fun _ => ⟨_, rfl, by simp [rowOf], by simp [rowOf]⟩

theorem TableRow.build (dest cmd : Byte) (payload : List Byte) : Statement (.build dest cmd payload) :=
  fun _ => ⟨_, rfl, by simp [rowOf], by simp [rowOf]⟩

theorem TableRow.parse (frame : List Byte) : Statement (.parse frame) :=
  fun _ => ⟨_, rfl, by simp [rowOf], by simp [rowOf]⟩

theorem TableRow.transmit (dest cmd : Byte) (payload : List Byte) : Statement (.transmit dest cmd payload) :=
  fun _ => ⟨_, rfl, by simp [rowOf], by simp [rowOf]⟩

theorem TableRow.recvArm (src cmd : Byte) : Statement (.recvArm src cmd) :=
  fun _ => ⟨_, rfl, by simp [rowOf], by simp [rowOf]⟩

theorem TableRow.recvAbort : Statement .recvAbort :=
  fun _ => ⟨_, rfl, by simp [rowOf], by simp [rowOf]⟩

theorem TableRow.recvPoll : Statement .recvPoll :=
  fun _ => ⟨_, rfl, by simp [rowOf], by simp [rowOf]⟩

theorem TableRow.rxSof : Statement .rxSof :=
  fun _ => ⟨_, rfl, by simp [rowOf, sofByte], by simp [rowOf]⟩

theorem TableRow.rxEof : Statement .rxEof :=
  fun _ => ⟨_, rfl, by simp [rowOf, eofByte], by simp [rowOf]⟩

theorem TableRow.rxEsc : Statement .rxEsc :=
  fun _ => ⟨_, rfl, by simp [rowOf, escByte], by simp [rowOf]⟩

theorem TableRow.rxData (b : Byte) : Statement (.rxData b) := by
  intro h
  have h : rxClass b = .data := of_decide_eq_true h
  refine ⟨b, rfl, by simp [rowOf], ?_⟩
  have hs : b ≠ 0xE2#8 ∧ b ≠ 0xE3#8 ∧ b ≠ 0xE0#8 := by
    refine ⟨?_, ?_, ?_⟩ <;> rintro rfl <;> cases h
  simp [rowOf, hs.1, hs.2.1, hs.2.2]

end Sys2Proof.Laws
end

