-- ==== Sys2Proof/Machine/Pseudo.lean ====
section
/-! DEFINITION. The pseudo-instructions RX, DRAIN and REQUEST as agenda events (R86), and the assembler notation of commands
and environment actions (R85). -/

namespace Sys2Proof.Machine

/-- The agenda event that issues a host command; none for a receive byte class. -/
def commandEvent (i : Instr) : Option Event :=
  match encode i with
  | .command (op :: operands) => some (.host op operands)
  | .command [] => none
  | .received _ => none

/-- `RX [b0, ..., bk]` (R86): FEED, then one RXSTEP a byte; a step that is not enabled is skipped. -/
def pseudoRx (bs : List Byte) : List Event := .feed bs :: List.replicate bs.length .receive

/-- `DRAIN` (R86): RXSTEP while RXQ holds a byte and WSTATE = WAITING. One turn a byte of RXQ is enough, and the turns after
the wait has ended are skipped. -/
def pseudoDrain (s : State) : List Event := List.replicate s.rxq.length .receive

/-- `REQUEST d, c, [p], s, c2` (R86): TRANSMIT d, c, [p], then RECV_ARM s, c2. -/
def pseudoRequest (d c : Byte) (p : List Byte) (src cmd : Byte) : List Event :=
  (commandEvent (.transmit d c p)).toList ++ (commandEvent (.recvArm src cmd)).toList

/-- One hexadecimal digit. -/
def hexDigit (n : Nat) : Char := ("0123456789ABCDEF".toList).getD n '0'

/-- `0xNN` (R85). -/
def hexByte (b : Byte) : List Char := ['0', 'x', hexDigit (b.toNat / 16), hexDigit (b.toNat % 16)]

/-- `0xNNNN` (R85). -/
def hexWord (w : Word16) : List Char :=
  ['0', 'x', hexDigit (w.toNat / 4096), hexDigit (w.toNat / 256 % 16), hexDigit (w.toNat / 16 % 16), hexDigit (w.toNat % 16)]

/-- The bytes of a sequence, separated by commas (R85). -/
def hexItems : List Byte → List Char
  | [] => []
  | [b] => hexByte b
  | b :: c :: rest => hexByte b ++ [',', ' '] ++ hexItems (c :: rest)

/-- `[b0, b1, ...]` (R85). -/
def hexSeq (s : List Byte) : List Char := ['['] ++ hexItems s ++ [']']

/-- Operands, separated by commas (R85). -/
def operandText : List (List Char) → List Char
  | [] => []
  | [a] => [' '] ++ a
  | a :: b :: rest => [' '] ++ a ++ [','] ++ operandText (b :: rest)

/-- A command in the notation of R85; none for a receive byte, which has no command form. -/
def commandText (i : Instr) : Option (List Char) :=
  let form (ops : List (List Char)) := some (i.mnemonic.toList ++ operandText ops)
  match i with
  | .crcUpdate c b => form [hexWord c, hexByte b]
  | .crcCompute d => form [hexSeq d]
  | .stuff d => form [hexSeq d]
  | .destuff d => form [hexSeq d]
  | .build d c p => form [hexByte d, hexByte c, hexSeq p]
  | .parse f => form [hexSeq f]
  | .transmit d c p => form [hexByte d, hexByte c, hexSeq p]
  | .recvArm a b => form [hexByte a, hexByte b]
  | .recvAbort => form []
  | .recvPoll => form []
  | .rxSof => none
  | .rxEof => none
  | .rxEsc => none
  | .rxData _ => none

/-- An environment action in the notation of R85; a host event's text is its command's. -/
def eventText (e : Event) : Option (List Char) :=
  match e with
  | .host op operands =>
    match decodeCommand (op :: operands) with
    | .ok i => commandText i
    | .error _ => some (hexSeq (op :: operands))
  | .receive => some "RXSTEP".toList
  | .reset => some "RESET".toList
  | .feed bs => some ("FEED ".toList ++ hexSeq bs)

end Sys2Proof.Machine
end

