-- ==== Sys2Proof/Tests/Slice0.lean ====
section
/-! SUPPORT. The model's own tests: ill-formed terms, words written out from the spec's encodings, one step per instruction
with the results of spec/95_test_vectors.md (the vector is named in each docstring), and for every obligation with
hypotheses a state and operands that meet them. -/

namespace Sys2Proof.Tests

open Sys2Proof Sys2Proof.Machine Sys2Proof.Safety

/-! ### Helpers -/

/-- A property of the next state; false of a fault or a refusal. -/
def after (o : Host.Outcome State Fault Refusal) (p : State → Bool) : Bool :=
  match o with
  | .next t => p t
  | .fault _ => false
  | .refused _ => false

/-- The one response a step from reset gives. -/
def answers (o : Host.Outcome State Fault Refusal) (r : List Byte) : Bool :=
  after o fun t => decide (t.responses = [r])

/-- Stops with this fault. -/
def faultsWith (o : Host.Outcome State Fault Refusal) (f : Fault) : Bool :=
  match o with
  | .next _ => false
  | .fault g => decide (g = f)
  | .refused _ => false

/-- The configuration of spec/95_test_vectors.md. -/
def cfg42 : Config := { config with localAddr := 0x42#8 }

/-- The frame of V-B1. -/
def frameB1 : List Byte :=
  [0xE2#8, 0x88#8, 0x0B#8, 0x42#8, 0x28#8, 0x0A#8, 0x0B#8, 0x00#8, 0xC6#8, 0x5D#8, 0xE3#8]

/-- A wait for command 0x28 of node 0x88 (V-L9). -/
def armed : State := { State.reset with wstate := .waiting, expSrc := 0x88#8, expCmd := 0x28#8 }

/-- The body of V-L2 in RXBUF, with its last data byte stored. -/
def bodyL2 : State :=
  { armed with
    rxbuf := [(0, 0x42#8), (1, 0x09#8), (2, 0x88#8), (3, 0x28#8), (4, 0x55#8), (5, 0xB0#8), (6, 0x53#8)]
    rxidx := 7 }

/-! ### Well-formedness: each check refuses -/

/-- A sequence one byte longer than its length field can say (R77). -/
def tooLong : List Byte := List.replicate 65536 0x00#8

theorem test_seqFits_bounds : seqFits tooLong = false ∧ seqFits (List.replicate 65535 0x00#8) = true :=
  ⟨decide_eq_false (by rw [tooLong, List.length_replicate]; decide),
    decide_eq_true (by rw [List.length_replicate]; decide)⟩

theorem test_wf_crcCompute_too_long : (Instr.crcCompute tooLong).wf = false := test_seqFits_bounds.1

theorem test_wf_stuff_too_long : (Instr.stuff tooLong).wf = false := test_seqFits_bounds.1

theorem test_wf_destuff_too_long : (Instr.destuff tooLong).wf = false := test_seqFits_bounds.1

theorem test_wf_build_too_long : (Instr.build 0x00#8 0x00#8 tooLong).wf = false := test_seqFits_bounds.1

theorem test_wf_parse_too_long : (Instr.parse tooLong).wf = false := test_seqFits_bounds.1

theorem test_wf_transmit_too_long :
    (Instr.transmit 0x00#8 0x00#8 tooLong).wf = false := test_seqFits_bounds.1

theorem test_wf_rxData_marker :
    (Instr.rxData 0xE0#8).wf = false ∧ (Instr.rxData 0xE2#8).wf = false ∧ (Instr.rxData 0xE3#8).wf = false := by decide

/-- An instance with no byte of buffer is no configuration (R12). -/
theorem test_config_wf : Config.wf { config with rxCap := 0 } = false ∧ Config.wf config = true := by decide

/-! ### Decoding: one word of each row, written out from the spec's encodings -/

/-- V-C2. -/
theorem test_decode_crcUpdate :
    decode (.command [0x01#8, 0xE3#8, 0x00#8, 0xE2#8]) = .ok (.crcUpdate 0xE300#16 0xE2#8) := by rfl

/-- V-C11's data, in format S (R79). -/
theorem test_decode_crcCompute :
    decode (.command [0x02#8, 0x00#8, 0x02#8, 0xE2#8, 0x88#8]) = .ok (.crcCompute [0xE2#8, 0x88#8]) := by rfl

/-- V-S4's data, in format S. -/
theorem test_decode_stuff :
    decode (.command [0x03#8, 0x00#8, 0x03#8, 0xE2#8, 0xE0#8, 0xE3#8]) = .ok (.stuff [0xE2#8, 0xE0#8, 0xE3#8]) := by rfl

/-- V-D5. -/
theorem test_decode_destuff :
    decode (.command [0x04#8, 0x00#8, 0x04#8, 0xE2#8, 0x01#8, 0xE0#8, 0xE3#8]) =
      .ok (.destuff [0xE2#8, 0x01#8, 0xE0#8, 0xE3#8]) := by rfl

/-- V-B1. -/
theorem test_decode_build :
    decode (.command [0x05#8, 0x88#8, 0x28#8, 0x00#8, 0x03#8, 0x0A#8, 0x0B#8, 0x00#8]) =
      .ok (.build 0x88#8 0x28#8 [0x0A#8, 0x0B#8, 0x00#8]) := by rfl

/-- V-P8. -/
theorem test_decode_parse :
    decode (.command [0x06#8, 0x00#8, 0x02#8, 0xE2#8, 0x02#8]) = .ok (.parse [0xE2#8, 0x02#8]) := by rfl

/-- V-L15. -/
theorem test_decode_transmit :
    decode (.command [0x07#8, 0xE2#8, 0xE0#8, 0x00#8, 0x02#8, 0xE3#8, 0xE1#8]) =
      .ok (.transmit 0xE2#8 0xE0#8 [0xE3#8, 0xE1#8]) := by rfl

/-- V-L9. -/
theorem test_decode_recvArm : decode (.command [0x08#8, 0x88#8, 0x28#8]) = .ok (.recvArm 0x88#8 0x28#8) := by rfl

/-- V-L8. -/
theorem test_decode_recvAbort : decode (.command [0x09#8]) = .ok .recvAbort := by rfl

/-- V-L7. -/
theorem test_decode_recvPoll : decode (.command [0x0A#8]) = .ok .recvPoll := by rfl

/-- R75, and ACK as data. -/
theorem test_decode_received :
    decode (.received 0xE2#8) = .ok .rxSof ∧ decode (.received 0xE3#8) = .ok .rxEof ∧
    decode (.received 0xE0#8) = .ok .rxEsc ∧ decode (.received 0xE1#8) = .ok (.rxData 0xE1#8) ∧
    decode (.received 0xC0#8) = .ok (.rxData 0xC0#8) := by
  exact ⟨rfl, rfl, rfl, rfl, rfl⟩

/-- V-L17 to V-L19: what does not decode. -/
theorem test_decode_illegal :
    decode (.command [0xFF#8]) = .error .unknownOpcode ∧ decode (.command [0x00#8]) = .error .unknownOpcode ∧
    decode (.command [0x0B#8]) = .error .unknownOpcode ∧ decode (.command [0x0A#8, 0x00#8]) = .error .wrongLength ∧
    decode (.command [0x07#8, 0x88#8, 0x28#8, 0x00#8, 0x03#8, 0x0A#8, 0x0B#8]) = .error .wrongLength := by
  exact ⟨rfl, rfl, rfl, rfl, rfl⟩

/-- Table words: four bytes of CRC_UPDATE, one byte of BUILD with zeros above it, and a received byte. -/
theorem test_table_words :
    decodeTableWord 32 0xE200E301 = some (.crcUpdate 0xE300#16 0xE2#8) ∧
    decodeTableWord 8 0x05 = some (.build 0x00#8 0x00#8 []) ∧
    decodeTableWord 8 0x02 = some (.crcCompute []) ∧
    decodeTableWord 24 0x288808 = some (.recvArm 0x88#8 0x28#8) ∧
    decodeTableWord 8 0xE2 = some .rxSof ∧
    decodeTableWord 8 0x55 = some (.rxData 0x55#8) := by decide

/-- A placed table word is what the next step runs. -/
theorem test_withFetchWord :
    answers (step (State.reset.withFetchWord 32 0xE200E301)) [0x00#8, 0xC4#8, 0xFF#8] = true ∧
    after (step (State.reset.withFetchWord 8 0xE0)) (fun t => t.escp && t.rxq.isEmpty && t.agenda.isEmpty) = true := by
  decide

/-! ### One step per instruction -/

/-- V-C2, V-C6. -/
theorem test_crcUpdate :
    answers (exec (.crcUpdate 0xE300#16 0xE2#8) State.reset) [0x00#8, 0xC4#8, 0xFF#8] = true ∧
    answers (exec (.crcUpdate 0x1234#16 0x56#8) State.reset) [0x00#8, 0x40#8, 0x06#8] = true := by decide

/-- V-C2 and V-C6 under Normal. -/
theorem test_crcUpdate_normal :
    crcUpdate { config with crcForm := .normal, crcPoly := 0x1021#16 } 0xE300#16 0xE2#8 = 0x1021#16 ∧
    crcUpdate { config with crcForm := .normal, crcPoly := 0x1021#16 } 0x1234#16 0x56#8 = 0x3C40#16 := by decide

/-- Entries 0x01, 0x08 and 0x58 of the table of R90, and V-C5 by the table. -/
theorem test_crcTable :
    crcTable config 0x01#8 = 0x1189#16 ∧ crcTable config 0x08#8 = 0x8C48#16 ∧ crcTable config 0x58#8 = 0xDECD#16 ∧
    crcTableUpdate config 0xFFFF#16 0xFF#8 = 0x00FF#16 := by decide

/-- V-C9, V-C14. -/
theorem test_crcCompute :
    answers (exec (.crcCompute []) State.reset) [0x00#8, 0xE3#8, 0x00#8] = true ∧
    answers (exec (.crcCompute [0x31#8, 0x32#8, 0x33#8, 0x34#8, 0x35#8, 0x36#8, 0x37#8, 0x38#8, 0x39#8]) State.reset)
      [0x00#8, 0xB3#8, 0xBA#8] = true := by decide +kernel

/-- V-S1, V-S6. -/
theorem test_stuff :
    answers (exec (.stuff []) State.reset) [0x00#8, 0x00#8, 0x00#8, 0x00#8, 0x00#8, 0x00#8, 0x00#8] = true ∧
    answers (exec (.stuff [0xE2#8, 0xE2#8, 0x0A#8, 0xE1#8, 0xE0#8, 0xE3#8, 0xE1#8, 0xC9#8, 0x46#8, 0xE3#8]) State.reset)
      [0x00#8, 0x00#8, 0x05#8, 0x00#8, 0x00#8, 0x00#8, 0x0F#8, 0xE2#8, 0xE0#8, 0xC2#8, 0x0A#8, 0xE0#8, 0xC1#8, 0xE0#8,
        0xC0#8, 0xE0#8, 0xC3#8, 0xE0#8, 0xC1#8, 0xC9#8, 0x46#8, 0xE3#8] = true := by decide

/-- V-D4, V-D10, V-D2. -/
theorem test_destuff_ok :
    answers (exec (.destuff [0xE2#8, 0xE0#8, 0xC0#8, 0xE3#8]) State.reset)
      [0x00#8, 0x00#8, 0x03#8, 0xE2#8, 0xE0#8, 0xE3#8] = true ∧
    answers (exec (.destuff [0xE2#8, 0xE1#8, 0xE2#8, 0xE3#8]) State.reset)
      [0x00#8, 0x00#8, 0x04#8, 0xE2#8, 0xE1#8, 0xE2#8, 0xE3#8] = true ∧
    answers (exec (.destuff [0xE0#8]) State.reset) [0x00#8, 0x00#8, 0x01#8, 0xE0#8] = true := by decide

/-- V-D5, V-D8, V-D7, V-D11. -/
theorem test_destuff_bad :
    answers (exec (.destuff [0xE2#8, 0x01#8, 0xE0#8, 0xE3#8]) State.reset) [0x06#8, 0x00#8, 0x02#8] = true ∧
    answers (exec (.destuff [0xE2#8, 0x01#8, 0xE0#8]) State.reset) [0x06#8, 0x00#8, 0x02#8] = true ∧
    answers (exec (.destuff [0xE2#8, 0xE0#8, 0xE0#8, 0xC0#8, 0xE3#8]) State.reset) [0x07#8, 0x00#8, 0x01#8] = true ∧
    answers (exec (.destuff [0xE2#8, 0xE0#8, 0x41#8, 0xE0#8, 0xE3#8]) State.reset) [0x07#8, 0x00#8, 0x01#8] = true := by
  decide

/-- V-B1 at LOCAL_ADDR = 0x42. -/
theorem test_build :
    buildResponse (build cfg42 0x88#8 0x28#8 [0x0A#8, 0x0B#8, 0x00#8]) =
      { status := .ok, fields := [0x00#8, 0x0B#8] ++ frameB1 } := by decide +kernel

/-- V-B6: the first payload that is too large. -/
theorem test_build_too_large :
    answers (exec (.build 0xFF#8 0xFF#8 (List.replicate 248 0x55#8)) State.reset) [0x08#8] = true := by decide +kernel

/-- V-P1, V-P9. -/
theorem test_parse :
    answers (exec (.parse frameB1) State.reset) [0x00#8, 0x88#8, 0x42#8, 0x28#8, 0x0B#8, 0x0A#8, 0x0B#8, 0x00#8] = true ∧
    answers (exec (.parse [0xE2#8, 0xAA#8, 0x05#8, 0xEC#8, 0xE3#8]) State.reset) [0x03#8] = true := by decide +kernel

/-- V-P6, V-P7, V-P10, V-P12. -/
theorem test_parse_bad :
    answers (exec (.parse []) State.reset) [0x02#8] = true ∧
    answers (exec (.parse [0xE2#8]) State.reset) [0x03#8] = true ∧
    answers (exec (.parse [0xE2#8, 0x00#8, 0x03#8]) State.reset) [0x04#8] = true ∧
    answers (exec (.parse ((frameB1.set 9 0x5C#8).set 10 0x00#8)) State.reset) [0x04#8] = true := by decide +kernel

/-- V-L15 at LOCAL_ADDR = 0x42. -/
theorem test_transmit :
    (transmitFrame cfg42 0xE2#8 0xE0#8 [0xE3#8, 0xE1#8] State.reset).txlog =
      [0xE2#8, 0xE0#8, 0xC2#8, 0x0A#8, 0x42#8, 0xE0#8, 0xC0#8, 0xE0#8, 0xC3#8, 0xE0#8, 0xC1#8, 0x4E#8, 0xB6#8, 0xE3#8,
        0xE1#8] ∧
    (transmitFrame cfg42 0xE2#8 0xE0#8 [0xE3#8, 0xE1#8] State.reset).responses =
      [[0x00#8, 0x00#8, 0x04#8, 0x00#8, 0x0E#8]] := by decide +kernel

/-- V-L16. -/
theorem test_transmit_too_large :
    after (exec (.transmit 0x88#8 0x28#8 (List.replicate 248 0x55#8)) State.reset)
      (fun t => decide (t.responses = [[0x08#8]]) && decide (t.txlog = [])) = true := by decide +kernel

/-- V-L9. -/
theorem test_recvArm :
    after (exec (.recvArm 0x88#8 0x28#8) State.reset)
      (fun t => decide (t = { armed with responses := [[0x00#8]] })) = true := by decide

/-- V-L8, V-L11. -/
theorem test_recvAbort :
    answers (exec .recvAbort State.reset) [0x0B#8] = true ∧
    after (exec .recvAbort armed)
      (fun t => decide (t.wstate = .done) && decide (t.resStatus.code = 0x09#8) && decide (t.responses = [[0x00#8]])) =
      true := by decide

/-- V-L7, V-L10, V-L12, and the poll of program P2. -/
theorem test_recvPoll :
    answers (exec .recvPoll State.reset) [0x0B#8] = true ∧ answers (exec .recvPoll armed) [0x0A#8] = true ∧
    answers (exec .recvPoll { State.reset with wstate := .done, resStatus := .timeout }) [0x09#8] = true ∧
    answers (exec .recvPoll
        { State.reset with
          wstate := .done
          resMsg := some { dest := 0x42#8, src := 0x88#8, cmd := 0x28#8, len := 0x09#8, payload := [0x55#8] } })
      [0x00#8, 0x42#8, 0x88#8, 0x28#8, 0x09#8, 0x55#8] = true := by decide

/-- V-A6's second SOF, with an escape pending. -/
theorem test_rxSof :
    after (exec .rxSof { State.reset with rxidx := 1, escp := true })
      (fun t => decide (t.rxidx = 0) && !t.escp && !t.escerr) = true := by decide

/-- V-A3's two ESCs. -/
theorem test_rxEsc :
    after (exec .rxEsc State.reset) (fun t => t.escp && !t.escerr) = true ∧
    after (exec .rxEsc { State.reset with escp := true }) (fun t => t.escp && t.escerr) = true := by decide

/-- V-A2's 0x41 and V-A8's 0xC1, each after an ESC. -/
theorem test_rxData :
    after (exec (.rxData 0x41#8) { State.reset with escp := true })
      (fun t => decide (t.rxbuf = [(0, 0x61#8)]) && decide (t.rxidx = 1) && !t.escp && t.escerr) = true ∧
    after (exec (.rxData 0xC1#8) { State.reset with escp := true })
      (fun t => decide (t.rxbuf = [(0, 0xE1#8)]) && decide (t.rxidx = 1) && !t.escp && !t.escerr) = true := by decide

/-- R116 at the end of the buffer: index 254 is the last that is stored, 255 is dropped (V-A4's rule at RX_CAP = 256). -/
theorem test_rxData_full :
    after (exec (.rxData 0x05#8) { State.reset with rxidx := 254 })
      (fun t => decide (t.rxbuf = [(254, 0x05#8)]) && decide (t.rxidx = 255)) = true ∧
    after (exec (.rxData 0x05#8) { State.reset with rxidx := 255 })
      (fun t => decide (t.rxbuf = []) && decide (t.rxidx = 255)) = true := by decide

/-- V-L2: the message of the wait. -/
theorem test_rxEof_delivers :
    after (exec .rxEof bodyL2) (fun t =>
      decide (t.wstate = .done) && decide (t.resStatus = .ok) && decide (t.rxidx = 0) &&
      decide (t.resMsg = some { dest := 0x42#8, src := 0x88#8, cmd := 0x28#8, len := 0x09#8, payload := [0x55#8] })) =
    true := by decide +kernel

/-- V-A5 with V-L1, and V-L3: a parse failure ends the wait, a frame of another command does not. -/
theorem test_rxEof_other :
    after (exec .rxEof armed) (fun t => decide (t.wstate = .done) && decide (t.resStatus = .lengthMismatch)) = true ∧
    after (exec .rxEof { bodyL2 with expCmd := 0x29#8 })
      (fun t => decide (t.wstate = .waiting) && decide (t.resMsg = none)) = true := by decide +kernel

/-- V-L6: the filter with CHECK_DEST. -/
theorem test_check_dest :
    matchesWait { cfg42 with checkDest := true }
      { dest := 0x43#8, src := 0x88#8, cmd := 0x28#8, len := 0x09#8, payload := [0x55#8] } armed = false ∧
    matchesWait cfg42
      { dest := 0x43#8, src := 0x88#8, cmd := 0x28#8, len := 0x09#8, payload := [0x55#8] } armed = true := by decide

/-- The two faults, each in a state no run reaches. -/
theorem test_faults :
    faultsWith (exec .rxEof { armed with rxidx := 256 }) (.rxbufOutOfRange 256) = true ∧
    faultsWith (exec .rxEof { armed with rxidx := 1 }) (.rxbufUnwritten 0) = true := by decide

/-- R86: RX is a feed and a turn per byte; R85: the text of a command. -/
theorem test_pseudo :
    pseudoRx [0xE2#8, 0xE3#8] = [.feed [0xE2#8, 0xE3#8], .receive, .receive] ∧
    pseudoRequest 0x88#8 0x28#8 [] 0x88#8 0x28#8 =
      [.host 0x07#8 [0x88#8, 0x28#8, 0x00#8, 0x00#8], .host 0x08#8 [0x88#8, 0x28#8]] ∧
    commandText (.recvArm 0x88#8 0x28#8) = some "RECV_ARM 0x88, 0x28".toList := by decide

/-! ### For each obligation with hypotheses: a state and operands that meet them together, one a clause at its bounds -/

/-- A state with this agenda. -/
def withAgenda (ag : List Event) : State := { State.reset with agenda := ag }

/-- DecodeOfEncodeIsIdentity: the longest sequence, and the data byte next to the markers. -/
theorem witness_DecodeOfEncodeIsIdentity :
    (Instr.stuff (List.replicate 65535 0x00#8)).wf = true ∧ (Instr.rxData 0xE1#8).wf = true ∧
    Instr.recvAbort.wf = true := ⟨test_seqFits_bounds.2, by decide, rfl⟩

/-- EncodeOfDecodeIsIdentity: a string of each kind of format and a received byte. -/
theorem witness_EncodeOfDecodeIsIdentity :
    decode (.command [0x02#8, 0x00#8, 0x00#8]) = .ok (.crcCompute []) ∧ decode (.command [0x0A#8]) = .ok .recvPoll ∧
    decode (.received 0xFF#8) = .ok (.rxData 0xFF#8) := ⟨rfl, rfl, rfl⟩

/-- IllegalCommandAnswersAndWritesNothing: the opcodes at the ends of the illegal ranges, and a length one too long, one
too short and unreadable; the last three are of a state whose agenda holds the string. -/
theorem witness_IllegalCommandAnswersAndWritesNothing :
    Claims.IllegalString 0x00#8 [] ∧ Claims.IllegalString 0x0B#8 [] ∧ Claims.IllegalString 0xFF#8 [] ∧
    Claims.IllegalString 0x0A#8 [0x00#8] ∧ Claims.IllegalString 0x02#8 [0x00#8, 0x01#8] ∧
    Claims.IllegalString 0x05#8 [0x00#8] ∧ ¬ Claims.IllegalString 0x0A#8 [] ∧
    (withAgenda [.host 0x0A#8 [0x00#8]]).agenda = [.host 0x0A#8 [0x00#8]] := by
  refine ⟨?_, ?_, ?_, ?_, ?_, ?_, ?_, rfl⟩ <;> simp [Claims.IllegalString, Claims.impliedLength]

/-- StepRunsDecodedCommand. -/
theorem witness_StepRunsDecodedCommand :
    (withAgenda [.host 0x09#8 [], .receive]).agenda = .host 0x09#8 [] :: [.receive] ∧
    decode (.command [0x09#8]) = .ok .recvAbort := ⟨rfl, rfl⟩

/-- StepRunsReceivedByte. -/
theorem witness_StepRunsReceivedByte :
    let s : State := { armed with rxq := [0xE2#8, 0x01#8], agenda := [.receive] }
    s.agenda = .receive :: [] ∧ s.wstate = .waiting ∧ s.rxq = 0xE2#8 :: [0x01#8] ∧
      decode (.received 0xE2#8) = .ok .rxSof := ⟨rfl, rfl, rfl, rfl⟩

/-- ReceiveTurnNotEnabledIsSkipped: no byte in a wait; a byte and no wait, in both other values of WSTATE. -/
theorem witness_ReceiveTurnNotEnabledIsSkipped :
    let s : State := { armed with agenda := [.receive] }
    s.agenda = .receive :: [] ∧ (s.rxq = [] ∨ s.wstate ≠ .waiting) ∧
    (let u := { s with rxq := [0xE2#8], wstate := .idle }; u.rxq = [] ∨ u.wstate ≠ .waiting) ∧
    (let u := { s with rxq := [0xE2#8], wstate := .done }; u.rxq = [] ∨ u.wstate ≠ .waiting) := by decide

/-- ResetEventWrites, from a state in which every element it writes differs. -/
theorem witness_ResetEventWrites :
    ({ bodyL2 with escp := true, escerr := true, resStatus := .timeout, agenda := [.reset] } : State).agenda =
      .reset :: [] := rfl

/-- FeedAppendsAndEmptyAgendaIdles. -/
theorem witness_FeedAppendsAndEmptyAgendaIdles :
    (withAgenda [.feed [0xE2#8]]).agenda = .feed [0xE2#8] :: [] ∧ (withAgenda []).agenda = [] := ⟨rfl, rfl⟩

/-- CrcUpdateBitLevel, TableDrivenUpdateAgrees, CrcUpdateIsBijection and SingleByteErrorChangesCrc:
both forms, with the polynomials of R10. -/
theorem witness_crc_forms :
    config.crcForm = .reflected ∧ config.crcPoly = specPoly config.crcForm ∧
    (let cfg := { config with crcForm := .normal, crcPoly := 0x1021#16 }
     cfg.crcForm = .normal ∧ cfg.crcPoly = specPoly cfg.crcForm) := ⟨rfl, rfl, rfl, rfl⟩

/-- SingleByteErrorChangesCrc: the first and the last byte of a sequence. -/
theorem witness_SingleByteErrorChangesCrc :
    config.crcPoly = specPoly config.crcForm ∧ [0x31#8, 0x32#8][0]? = some 0x31#8 ∧ [0x31#8, 0x32#8][1]? = some 0x32#8 ∧
    0x01#8 ≠ 0x00#8 := by decide

/-- StuffResult, WireInteriorHasNoRawReserved, WireFormIsReceived: the stuffed sequence of V-S4. -/
theorem witness_StuffResult :
    [0xE2#8, 0xE0#8, 0xC0#8, 0xE3#8] = 0xE2#8 :: [0xE0#8].flatMap Claims.wireBytes ++ [0xE3#8] := by decide

/-- InsertedCountAndWireLength, StuffKeepsFirstAndLast, DestuffInvertsStuff: lengths 0, 1 and 2, and a last byte ESC. -/
theorem witness_stuff_lengths :
    ([] : List Byte).length ≤ 1 ∧ [0xE0#8].length ≤ 1 ∧ 1 ≤ [0xE0#8].length ∧ 2 ≤ [0xE2#8, 0xE0#8].length ∧
    [0xE2#8, 0xE0#8].getLast? = some 0xE0#8 ∧ [0xE2#8, 0xE3#8].getLast? ≠ some 0xE0#8 ∧
    ¬ 2 ≤ [0xE0#8].length := by decide

/-- WireInteriorHasNoRawReserved: the first interior index of V-S4's wire form. -/
theorem witness_WireInteriorHasNoRawReserved :
    let W := (stuff (0xE2#8 :: [0xE0#8] ++ [0xE3#8])).1
    1 + 1 < W.length ∧ W[1]? = some 0xE0#8 ∧ isReserved 0xE0#8 = true := by decide

/-- DestuffResult: each of its clauses (V-D4, V-D5, V-D6). -/
theorem witness_DestuffResult :
    destuff [0xE2#8, 0xE0#8, 0xC0#8, 0xE3#8] = .ok [0xE2#8, 0xE0#8, 0xE3#8] ∧
    destuff [0xE2#8, 0x01#8, 0xE0#8, 0xE3#8] = .error (.truncated 2) ∧
    destuff [0xE2#8, 0xE0#8, 0x41#8, 0xE3#8] = .error (.unrecognized 1) := ⟨rfl, rfl, rfl⟩

/-- DestuffByEscapeUnits: legal units of both kinds, and each end after them. -/
theorem witness_DestuffByEscapeUnits :
    Claims.UnitsLegal [(0xE0#8, true), (0xE2#8, false), (0xC0#8, false)] ∧ 0xE3#8 ≠ 0xE0#8 ∧
    isReserved (0x41#8 ^^^ 0x20#8) = false ∧ isReserved (0xE0#8 ^^^ 0x20#8) = false ∧
    2 ≤ [0xE0#8, 0xE3#8].length := by
  refine ⟨?_, by decide, by decide, by decide, by decide⟩
  intro u hu
  simp only [List.mem_cons, List.not_mem_nil, or_false] at hu
  rcases hu with rfl | rfl | rfl <;> decide

/-- BuildResult, TransmitResult, ParseInvertsBuild: the empty, the longest and the first too long payload. -/
theorem witness_payload_bounds :
    ([] : List Byte).length ≤ 247 ∧ (List.replicate 247 0x55#8).length ≤ 247 ∧
    247 < (List.replicate 248 0x55#8).length := by decide +kernel

/-- BuildResult: the header bytes of V-B2's command at the machine's own local address. -/
theorem witness_BuildResult :
    let head := [0xE2#8, 0x10#8, BitVec.ofNat 8 (([] : List Byte).length + 8), config.localAddr, 0x01#8] ++ []
    head = [0xE2#8, 0x10#8, 0x08#8, config.localAddr, 0x01#8] := by simp

/-- TransmitResult and WireLengthBounds: a frame of the machine's own configuration, and its wire form. -/
theorem witness_TransmitResult :
    ∃ F W k, build config 0x88#8 0x28#8 [] = .ok F ∧ stuff F = (W, k) ∧ W = (stuff F).1 := by
  have h : ∃ F, build config 0x88#8 0x28#8 [] = .ok F := by
    unfold build
    exact ⟨_, if_neg (by decide)⟩
  obtain ⟨F, h⟩ := h
  exact ⟨F, _, _, h, Prod.mk.eta.symm, rfl⟩

/-- BuiltFrameLayout, and SingleByteCorruptionStatus at every index its clauses tell apart (V-B1). -/
theorem witness_SingleByteCorruptionStatus :
    cfg42.crcPoly = specPoly cfg42.crcForm ∧ 0x01#8 ≠ 0x00#8 ∧
    frameB1[0]? = some 0xE2#8 ∧ frameB1[1]? = some 0x88#8 ∧ frameB1[2]? = some 0x0B#8 ∧ frameB1[3]? = some 0x42#8 ∧
    frameB1[9]? = some 0x5D#8 ∧ frameB1[10]? = some 0xE3#8 ∧ 10 + 1 = frameB1.length := by decide

theorem witness_BuiltFrameLayout : build cfg42 0x88#8 0x28#8 [0x0A#8, 0x0B#8, 0x00#8] = .ok frameB1 := by decide +kernel

/-- ParseResult, check 1: no bytes, and a wrong first byte (V-P6, V-P2). -/
theorem witness_ParseResult_start :
    ([] : List Byte)[0]? ≠ some 0xE2#8 ∧ (frameB1.set 0 0xE1#8)[0]? ≠ some 0xE2#8 := by decide

/-- Check 2: one byte, two bytes, and one byte too many (V-P7, V-P8, V-P3). -/
theorem witness_ParseResult_length :
    [0xE2#8][0]? = some 0xE2#8 ∧ [0xE2#8][2]?.map BitVec.toNat ≠ some [0xE2#8].length ∧
    [0xE2#8, 0x02#8][2]?.map BitVec.toNat ≠ some [0xE2#8, 0x02#8].length ∧
    (let F := frameB1.insertIdx 8 0x00#8; F[0]? = some 0xE2#8 ∧ F[2]?.map BitVec.toNat ≠ some F.length) := by decide

/-- Check 3: the shortest frame that reaches it (V-P10). -/
theorem witness_ParseResult_crc :
    let F := [0xE2#8, 0x00#8, 0x03#8]
    F[0]? = some 0xE2#8 ∧ F[2]?.map BitVec.toNat = some F.length ∧ F[F.length - 3]? = some 0xE2#8 ∧
      F[F.length - 2]? = some 0x00#8 ∧ F.getLast? = some 0x03#8 ∧
      crc16 config (F.take (F.length - 3)) ≠ be16 0xE2#8 0x00#8 := by decide +kernel

/-- Check 4: V-B1's frame with another last byte (V-P5). -/
theorem witness_ParseResult_terminator :
    let F := frameB1.set 10 0xE0#8
    F[0]? = some 0xE2#8 ∧ F[2]?.map BitVec.toNat = some F.length ∧ F[F.length - 3]? = some 0xC6#8 ∧
      F[F.length - 2]? = some 0x5D#8 ∧ F.getLast? = some 0xE0#8 ∧ 0xE0#8 ≠ 0xE3#8 ∧
      crc16 config (F.take (F.length - 3)) = be16 0xC6#8 0x5D#8 := by decide +kernel

/-- Check 5: a frame shorter than 8 bytes that passes the rest (V-P9). -/
theorem witness_ParseResult_short :
    let F := [0xE2#8, 0xAA#8, 0x05#8, 0xEC#8, 0xE3#8]
    F[0]? = some 0xE2#8 ∧ F[2]?.map BitVec.toNat = some F.length ∧ F[F.length - 3]? = some 0x05#8 ∧
      F[F.length - 2]? = some 0xEC#8 ∧ F.getLast? = some 0xE3#8 ∧ F.length < 8 ∧
      crc16 config (F.take (F.length - 3)) = be16 0x05#8 0xEC#8 := by decide +kernel

/-- The accepted frames: V-B1's (V-P1) and, at the least length, V-B2's (V-P14). -/
theorem witness_ParseResult_ok :
    (frameB1 = [0xE2#8, 0x88#8, 0x0B#8, 0x42#8, 0x28#8] ++ [0x0A#8, 0x0B#8, 0x00#8] ++ [0xC6#8, 0x5D#8, 0xE3#8] ∧
      crc16 config (frameB1.take (frameB1.length - 3)) = be16 0xC6#8 0x5D#8 ∧ frameB1.getLast? = some 0xE3#8) ∧
    (let F := [0xE2#8, 0x10#8, 0x08#8, 0x42#8, 0x01#8, 0xCD#8, 0x15#8, 0xE3#8]
     F = [0xE2#8, 0x10#8, 0x08#8, 0x42#8, 0x01#8] ++ [] ++ [0xCD#8, 0x15#8, 0xE3#8] ∧
      F[2]?.map BitVec.toNat = some F.length ∧ ¬ F.length < 8 ∧
      crc16 config (F.take (F.length - 3)) = be16 0xCD#8 0x15#8 ∧ F.getLast? = some 0xE3#8) := by decide +kernel

/-- DeclaredLengthMismatchReported: the frame of W2. -/
theorem witness_DeclaredLengthMismatchReported :
    let F := frameB1.insertIdx 8 0x00#8
    F[0]? = some 0xE2#8 ∧ F[2]? = some 0x0B#8 ∧ F.length = 12 := by decide

/-- BuildScenario. -/
theorem witness_BuildScenario :
    frameB1.take 8 = [0xE2#8, 0x88#8, 0x0B#8, cfg42.localAddr, 0x28#8, 0x0A#8, 0x0B#8, 0x00#8] := rfl

/-- RecvAbortResult and RecvPollResult: every value of WSTATE, and in DONE both kinds of result. -/
theorem witness_wait_states :
    armed.wstate = .waiting ∧ State.reset.wstate ≠ .waiting ∧ State.reset.wstate = .idle ∧
    (let s := { armed with wstate := .done, resStatus := .timeout }
     s.wstate = .done ∧ s.resStatus ≠ .ok ∧ s.wstate ≠ .waiting) ∧
    (let m : Message := { dest := 0x42#8, src := 0x88#8, cmd := 0x28#8, len := 0x08#8, payload := [] }
     let s := { armed with wstate := .done, resMsg := some m }
     s.wstate = .done ∧ s.resStatus = .ok ∧ s.resMsg = some m) := by decide

/-- RxEscResult and RxDataResult: an escape pending or not, a legal and an illegal pair, and both sides of the buffer's
end. -/
theorem witness_RxDataResult :
    State.reset.escp = false ∧ ({ State.reset with escp := true } : State).escp = true ∧
    0xC1#8 ≠ 0xE0#8 ∧ 0xC1#8 ≠ 0xE2#8 ∧ 0xC1#8 ≠ 0xE3#8 ∧
    (let s : State := { State.reset with escp := true, rxidx := 254 }
     let v := 0xC1#8 ^^^ 0x20#8
     let e := s.escerr || !isReserved v
     e = false ∧ s.rxidx < config.rxCap - 1 ∧ (s.escp = false → v = 0xC1#8 ∧ e = s.escerr) ∧
       (s.escp = true → v = 0xC1#8 ^^^ 0x20#8 ∧ e = (s.escerr || !isReserved v))) ∧
    (let s : State := { State.reset with rxidx := 255 }
     config.rxCap - 1 ≤ s.rxidx ∧ (s.escp = false → 0xC1#8 = 0xC1#8 ∧ false = s.escerr) ∧
       (s.escp = true → 0xC1#8 = 0xC1#8 ^^^ 0x20#8)) := by decide

/-- RxEofResult: both bad escapes, with the index at each end of its range. -/
theorem witness_RxEofResult_escapes :
    (let s : State := { armed with escerr := true, escp := true }; s.rxidx ≤ config.rxCap - 1 ∧ s.escerr = true) ∧
    (let s : State := { armed with escp := true, rxidx := 255 }
     s.rxidx ≤ config.rxCap - 1 ∧ s.escerr = false ∧ s.escp = true) := by decide

/-- RxEofResult: the body of V-L2 and its message, matching and not. -/
theorem witness_RxEofResult_body :
    let body := [0x42#8, 0x09#8, 0x88#8, 0x28#8, 0x55#8, 0xB0#8, 0x53#8]
    bodyL2.escerr = false ∧ bodyL2.escp = false ∧ body.length = bodyL2.rxidx ∧
      (∀ i < bodyL2.rxidx, Memory.read bodyL2.rxbuf i = body[i]?) := by decide

theorem witness_RxEofResult_message :
    let m : Message := { dest := 0x42#8, src := 0x88#8, cmd := 0x28#8, len := 0x09#8, payload := [0x55#8] }
    parse config ([0xE2#8] ++ [0x42#8, 0x09#8, 0x88#8, 0x28#8, 0x55#8, 0xB0#8, 0x53#8] ++ [0xE3#8]) = .ok m ∧
      (m.src = bodyL2.expSrc ∧ m.cmd = bodyL2.expCmd) ∧
      ¬ (m.src = ({ bodyL2 with expCmd := 0x29#8 } : State).expSrc ∧
          m.cmd = ({ bodyL2 with expCmd := 0x29#8 } : State).expCmd) ∧
      parse config ([0xE2#8] ++ [] ++ [0xE3#8]) = .error .lengthMismatch := by
  decide +kernel

/-- RxBufferFrame: each clause, at both sides of the buffer's end. -/
theorem witness_RxBufferFrame :
    after (exec .rxEof bodyL2) (fun _ => true) = true ∧
    after (exec (.rxData 0x01#8) { armed with rxidx := 254 }) (fun _ => true) = true ∧ 254 < config.rxCap - 1 ∧
    after (exec (.rxData 0x01#8) { armed with rxidx := 255 }) (fun _ => true) = true ∧ config.rxCap - 1 ≤ 255 ∧
    after (exec .rxSof armed) (fun _ => true) = true := by decide +kernel

/-- HostCommandsLeaveAssembler and FailedCommandWritesNothing: a command whose response is not OK. -/
theorem witness_FailedCommandWritesNothing :
    Instr.recvAbort.isCommand = true ∧
    exec .recvAbort State.reset = .next { State.reset with responses := [[0x0B#8]] } ∧
    ({ State.reset with responses := [[0x0B#8]] } : State).responses = State.reset.responses ++ [0x0B#8 :: []] ∧
    0x0B#8 ≠ 0x00#8 := ⟨rfl, rfl, rfl, by decide⟩

/-- OneResponsePerHostStep: a host event and another event, in a state with a legal held result. -/
theorem witness_OneResponsePerHostStep :
    (withAgenda [.host 0x0A#8 []]).agenda = .host 0x0A#8 [] :: [] ∧ ResultLegal (withAgenda [.host 0x0A#8 []]) ∧
    step (withAgenda [.reset]) = .next (withAgenda []) ∧
    ResultLegal { armed with wstate := .done, resStatus := .timeout } := by
  exact ⟨rfl, by decide, rfl, by decide⟩

/-- OnlyTransmitAppendsToTxlog and OnlyReceiveTakesFromRxq: a step that appends to TXLOG, and one that takes from RXQ. -/
theorem witness_streams :
    after (step (withAgenda [.host 0x07#8 [0x88#8, 0x28#8, 0x00#8, 0x00#8]])) (fun t => !decide (t.txlog = [])) = true ∧
    step { armed with rxq := [0xE2#8], agenda := [.receive] } = .next armed :=
  ⟨by decide +kernel, rfl⟩

/-- WaitEndsOnlyBy: a step by each of the three. -/
theorem witness_WaitEndsOnlyBy :
    armed.wstate = .waiting ∧
    after (step { armed with agenda := [.reset] }) (fun t => !decide (t.wstate = .waiting)) = true ∧
    after (step { armed with agenda := [.host 0x09#8 []] }) (fun t => !decide (t.wstate = .waiting)) = true ∧
    after (step { armed with agenda := [.receive], rxq := [0xE3#8] }) (fun t => !decide (t.wstate = .waiting)) = true := by
  decide +kernel

/-- AbortAndFrameRace: both orders, and that the received EOF ends the wait. -/
theorem witness_AbortAndFrameRace :
    (let s : State := { bodyL2 with rxq := [0xE3#8], agenda := [.host 0x09#8 [], .receive] }
     s.wstate = .waiting ∧ s.rxq = 0xE3#8 :: [] ∧ s.agenda = .host 0x09#8 [] :: .receive :: []) ∧
    (let s : State := { bodyL2 with rxq := [0xE3#8], agenda := [.receive, .host 0x09#8 []] }
     s.agenda = .receive :: .host 0x09#8 [] :: [] ∧
       after (step s) (fun t => decide (t.wstate = .done) && decide (t.resStatus = .ok)) = true) := by decide +kernel

/-- StepKeepsInvariant and GoodStateStepAnswers: a state in a wait, with a body collected, that takes a step. -/
theorem witness_invariant :
    Inv config { bodyL2 with agenda := [.host 0x09#8 []] } ∧
    after (step { bodyL2 with agenda := [.host 0x09#8 []] }) (fun _ => true) = true := by
  refine ⟨⟨by decide, ⟨by decide, by decide⟩, by decide, by decide, by decide, ?_⟩, by decide⟩
  intro h
  cases h

/-- WireFormIsReceived and MidFrameSofDiscards: an interior that fills RXBUF but for the terminator, and the fragment
of W3 before it. -/
theorem witness_WireFormIsReceived :
    [0x01#8, 0xE0#8, 0x02#8].length + 1 ≤ ({ config with rxCap := 4 } : Config).rxCap ∧
    0xE3#8 ∉ [0x01#8, 0x02#8, 0xE2#8] ∧
    [0xE2#8, 0x01#8, 0xE0#8, 0xC0#8, 0x02#8, 0xE3#8] = (stuff (0xE2#8 :: [0x01#8, 0xE0#8, 0x02#8] ++ [0xE3#8])).1 := by
  decide

/-- OverflowKeepsFirstBytes: V-A4, and the smallest buffer. -/
theorem witness_OverflowKeepsFirstBytes :
    1 ≤ ({ config with rxCap := 1 } : Config).rxCap ∧
    ∀ b ∈ [0x01#8, 0x02#8, 0x03#8, 0x04#8, 0x05#8], rxClass b = .data := by decide

/-- AssemblerAgreesWithDestuff: each of its three outcomes (V-A8, V-A2, V-A1), a body at the buffer's end. -/
theorem witness_AssemblerAgreesWithDestuff :
    1 ≤ config.rxCap ∧ 0xE2#8 ∉ [0xE0#8, 0xC1#8] ∧ 0xE3#8 ∉ [0xE0#8, 0xC1#8] ∧
    destuff (0xE2#8 :: [0xE0#8, 0xC1#8] ++ [0xE3#8]) = .ok [0xE2#8, 0xE1#8, 0xE3#8] ∧
    [0xE2#8, 0xE1#8, 0xE3#8].length - 2 ≤ ({ config with rxCap := 2 } : Config).rxCap - 1 ∧
    destuff (0xE2#8 :: [0xE0#8, 0x41#8] ++ [0xE3#8]) = .error (.unrecognized 1) ∧
    destuff (0xE2#8 :: [0x01#8, 0xE0#8] ++ [0xE3#8]) = .error (.truncated 2) := by
  exact ⟨by decide, by decide, by decide, rfl, by decide, rfl, rfl⟩

/-- EndToEndDelivery: the matching frame of program P2, from a state that awaits it. -/
theorem witness_EndToEndDelivery :
    let F := [0xE2#8, 0x42#8, 0x09#8, 0x88#8, 0x28#8, 0x55#8, 0xB0#8, 0x53#8, 0xE3#8]
    let s : State := { armed with rxq := F ++ [0xE1#8], agenda := List.replicate 9 .receive ++ [] }
    build { config with localAddr := 0x88#8 } 0x42#8 0x28#8 [0x55#8] = .ok F ∧ F = (stuff F).1 ∧ s.wstate = .waiting ∧
      s.expSrc = 0x88#8 ∧ s.expCmd = 0x28#8 ∧ s.rxq = F ++ [0xE1#8] ∧
      s.agenda = List.replicate F.length .receive ++ [] := by decide +kernel

/-- OutsideTheInvariant: the least index out of range, a body whose first byte is written and whose second is not, and an
OK result without a message. -/
theorem witness_OutsideTheInvariant :
    config.rxCap ≤ ({ armed with rxidx := 256 } : State).rxidx ∧
    (let s : State := { armed with rxidx := 2, rxbuf := [(0, 0x01#8)] }
     s.rxidx < config.rxCap ∧ s.escp = false ∧ s.escerr = false ∧ 1 < s.rxidx ∧
       (∀ i < 1, (Memory.read s.rxbuf i).isSome = true) ∧ Memory.read s.rxbuf 1 = none) ∧
    (let s : State := { armed with wstate := .done }
     s.wstate = .done ∧ s.resStatus = .ok ∧ s.resMsg = none) := by decide

end Sys2Proof.Tests
end

section
/-! PROOFS. What a host command can do, and failure atomicity (R21, R153). -/

namespace Sys2Proof.Machine

/-! ### What a host command can do -/

/-- TRANSMIT's two outcomes (R140): the rejection before any I/O, and the emission of the wire form with its ACK. -/
theorem transmitFrame_cases (cfg : Config) (dest cmd : Byte) (payload : List Byte) (s : State) :
    (∃ st, build cfg dest cmd payload = .error st ∧
      transmitFrame cfg dest cmd payload s = respond (failResponse st) s) ∨
    (∃ f, build cfg dest cmd payload = .ok f ∧
      transmitFrame cfg dest cmd payload s =
        respond { status := .ok, fields := len16 (stuff f).2 ++ len16 (stuff f).1.length }
          (emitTx ((stuff f).1 ++ [ackByte]) s)) := by
  cases hb : build cfg dest cmd payload with
  | error st => exact .inl ⟨st, rfl, by simp only [transmitFrame, hb]⟩
  | ok f => exact .inr ⟨f, rfl, by simp only [transmitFrame, hb]⟩

/-- RECV_ABORT's two outcomes (R143): it ends the wait that is armed, or answers that there is none. -/
theorem execRecvAbort_cases (s : State) :
    (s.wstate = .waiting ∧
      execRecvAbort s = .next (respond { status := .ok, fields := [] } (endWait .timeout none s))) ∨
    (s.wstate ≠ .waiting ∧ execRecvAbort s = .next (respond (failResponse .noWait) s)) := by
  by_cases hw : s.wstate = .waiting
  · exact .inl ⟨hw, if_pos hw⟩
  · exact .inr ⟨hw, if_neg hw⟩

/-- What a host command can do: it only answers, or it is one of the three that also write (R140, R142, R143), and then
its answer is OK. -/
theorem exec_command_cases {i : Instr} {s t : State} (hi : i.isCommand = true) (h : exec i s = .next t) :
    (∃ r, t = respond r s) ∨
    (∃ dest cmd payload f, i = .transmit dest cmd payload ∧ build config dest cmd payload = .ok f ∧
      t = respond { status := .ok, fields := len16 (stuff f).2 ++ len16 (stuff f).1.length }
        (emitTx ((stuff f).1 ++ [ackByte]) s)) ∨
    (∃ src cmd, i = .recvArm src cmd ∧ t = respond { status := .ok, fields := [] } (armWait src cmd s)) ∨
    (i = .recvAbort ∧ s.wstate = .waiting ∧
      t = respond { status := .ok, fields := [] } (endWait .timeout none s)) := by
  cases i with
  | crcUpdate | crcCompute | stuff | destuff | build | parse | recvPoll =>
    cases h
    exact .inl ⟨_, rfl⟩
  | transmit dest cmd payload =>
    cases h
    obtain ⟨st, -, ht⟩ | ⟨f, hf, ht⟩ := transmitFrame_cases config dest cmd payload s
    · exact .inl ⟨_, ht⟩
    · exact .inr (.inl ⟨dest, cmd, payload, f, rfl, hf, ht⟩)
  | recvArm src cmd =>
    cases h
    exact .inr (.inr (.inl ⟨src, cmd, rfl, rfl⟩))
  | recvAbort =>
    obtain ⟨hw, ht⟩ | ⟨-, ht⟩ := execRecvAbort_cases s
    · cases ht.symm.trans h
      exact .inr (.inr (.inr ⟨rfl, hw, rfl⟩))
    · cases ht.symm.trans h
      exact .inl ⟨_, rfl⟩
  | rxSof | rxEof | rxEsc | rxData => cases hi

/-! ### Failure atomicity -/

/-- The first byte of the response appended is the code of its status (R81). -/
theorem status_eq_code_of_respond {r : Response} {s u : State} {st : Byte} {fields : List Byte}
    (hu : u.responses = s.responses) (h : (respond r u).responses = s.responses ++ [st :: fields]) :
    st = r.status.code := by
  rw [respond_responses, hu] at h
  obtain ⟨hst, -⟩ := List.cons.inj (List.singleton_inj.mp (List.append_cancel_left h))
  exact hst.symm

/-- Settles O45: a command either only answers, so that nothing else can have changed, or its answer is OK. -/
theorem failedCommandWritesNothing : Obligations.FailedCommandWritesNothing := by
  intro i s t st fields hi hexec hresp hst
  obtain ⟨r, rfl⟩ | ⟨_, _, _, _, -, -, rfl⟩ | ⟨_, _, -, rfl⟩ | ⟨-, -, rfl⟩ := exec_command_cases hi hexec
  case inl => rfl
  all_goals exact absurd (status_eq_code_of_respond (by simp) hresp) hst

end Sys2Proof.Machine
end

section
/-! PROOFS. The equations of a step, one for each kind of event at the head of the agenda (R23, R117, R139). -/

namespace Sys2Proof.Machine

/-- With nothing on the agenda the state stays (R168). -/
theorem step_of_idle {s : State} (h : s.agenda = []) : step s = .next s := by
  simp [step, fetch, h]

theorem step_of_reset {s : State} {ag : List Event} (h : s.agenda = .reset :: ag) :
    step s = .next (resetEvent { s with agenda := ag }) := by
  simp [step, fetch, h, fetchEvent]

theorem step_of_feed {s : State} {bs : List Byte} {ag : List Event} (h : s.agenda = .feed bs :: ag) :
    step s = .next (feedRx bs { s with agenda := ag }) := by
  simp [step, fetch, h, fetchEvent]

/-- A command string that decodes runs its command (R139). -/
theorem step_of_command {s : State} {op : Byte} {rest : List Byte} {ag : List Event} {i : Instr}
    (h : s.agenda = .host op rest :: ag) (hd : decode (.command (op :: rest)) = .ok i) :
    step s = exec i { s with agenda := ag } := by
  simp [step, fetch, h, fetchEvent, hd]

/-- A command string that does not decode is an illegal command (R149). -/
theorem step_of_illegal {s : State} {op : Byte} {rest : List Byte} {ag : List Event} {e : DecodeError}
    (h : s.agenda = .host op rest :: ag) (hd : decode (.command (op :: rest)) = .error e) :
    step s = .next (illegalCommand { s with agenda := ag }) := by
  simp [step, fetch, h, fetchEvent, hd]

/-- The enabling condition of the receive agent: an armed wait and an oldest byte of RXQ (R117). -/
theorem receiveEnabled_iff (s : State) :
    receiveEnabled s = true ↔ s.wstate = .waiting ∧ ∃ b q, s.rxq = b :: q := by
  cases hq : s.rxq <;> simp [receiveEnabled, hq]

/-- A receive turn that is not enabled is passed over (R118). -/
theorem step_of_receive_skipped {s : State} {ag : List Event} (h : s.agenda = .receive :: ag)
    (he : receiveEnabled s = false) : step s = .next { s with agenda := ag } := by
  have he' : receiveEnabled { s with agenda := ag } = false := he
  simp [step, fetch, h, fetchEvent, fetchByte, he']

/-- An enabled receive turn takes the oldest byte of RXQ and runs its row (R117). -/
theorem step_of_receive_taken {s : State} {ag : List Event} {b : Byte} {q : List Byte}
    (h : s.agenda = .receive :: ag) (hw : s.wstate = .waiting) (hq : s.rxq = b :: q) :
    step s = exec (decodeByte b) { s with agenda := ag, rxq := q } := by
  simp [step, fetch, h, fetchEvent, fetchByte, receiveEnabled, takeRx, hw, hq, decode]

/-- Settles O6: the equation of a step at a command string that decodes. -/
theorem stepRunsDecodedCommand : Obligations.StepRunsDecodedCommand :=
  fun _ _ _ _ _ hag hd => step_of_command hag hd

/-- Settles O10: the equations of a step at a feed and at an empty agenda. -/
theorem feedAppendsAndEmptyAgendaIdles : Obligations.FeedAppendsAndEmptyAgendaIdles :=
  fun _ => ⟨fun _ _ hag => step_of_feed hag, step_of_idle⟩

/-- Settles O11: State.reset writes out R170's values, and the byte of RES_STATUS = OK is 0x00. -/
theorem startStateValues : Obligations.StartStateValues :=
  ⟨rfl, rfl, rfl, rfl, rfl, rfl, rfl, rfl, rfl, rfl⟩

end Sys2Proof.Machine
end

section
/-! PROOFS. What a receive byte can do (R111 to R117, R145): one inversion lemma, and from it what each receive row leaves
unchanged. -/

namespace Sys2Proof.Machine

/-- A received byte is no host command (R75). -/
theorem decodeByte_isCommand (b : Byte) : (decodeByte b).isCommand = false := by
  unfold decodeByte
  cases rxClass b <;> rfl

/-- RX_DATA on the assembler (R115, R116): the value is stored at RXIDX, or dropped. -/
theorem asmData_cases (cfg : Config) (b : Byte) (s : State) :
    (s.rxidx + 1 < cfg.rxCap ∧
      asmData cfg b s =
        { s with escp := false, escerr := escerrAfterData s.escp s.escerr b,
                 rxbuf := Memory.write s.rxbuf s.rxidx (dataValue s.escp b), rxidx := s.rxidx + 1 }) ∨
    (cfg.rxCap ≤ s.rxidx + 1 ∧
      asmData cfg b s = { s with escp := false, escerr := escerrAfterData s.escp s.escerr b }) :=
  store_cases cfg (dataValue s.escp b)
    { s with escp := false, escerr := escerrAfterData s.escp s.escerr b }

/-- RX_EOF, where RXIDX is in range: the body is delivered and the frame completed in the same step (R113, R117). -/
theorem exec_rxEof_of_lt {s : State} (h : s.rxidx < config.rxCap) :
    exec .rxEof s =
      consumeEvent config
        (.ok (Claims.delivered s, .frameComplete s.rxidx (eofStatus s.escp s.escerr))) := by
  show consumeEvent config (asmEof config s) = _
  rw [asmEof_of_lt h]
  rfl

/-- RX_EOF, where RXIDX is no index of RXBUF: the terminator's write faults. -/
theorem exec_rxEof_of_ge {s : State} (h : config.rxCap ≤ s.rxidx) :
    exec .rxEof s = .fault (.rxbufOutOfRange s.rxidx) := by
  show consumeEvent config (asmEof config s) = _
  rw [asmEof_of_ge h]
  rfl

/-- What a receive row can do: SOF, ESC and data only work the assembler; EOF also completes the frame it delivers. -/
theorem exec_receive_cases {i : Instr} {s t : State} (hi : i.isCommand = false) (h : exec i s = .next t) :
    (i = .rxSof ∧ t = asmSof s) ∨ (i = .rxEsc ∧ t = asmEsc s) ∨
    (∃ b, i = .rxData b ∧ t = asmData config b s) ∨
    (i = .rxEof ∧ s.rxidx < config.rxCap ∧
      frameComplete config s.rxidx (eofStatus s.escp s.escerr) (Claims.delivered s) = .ok t) := by
  cases i with
  | crcUpdate | crcCompute | stuff | destuff | build | parse | transmit | recvArm | recvAbort | recvPoll => cases hi
  | rxSof => cases h; exact .inl ⟨rfl, rfl⟩
  | rxEsc => cases h; exact .inr (.inl ⟨rfl, rfl⟩)
  | rxData b => cases h; exact .inr (.inr (.inl ⟨b, rfl, rfl⟩))
  | rxEof =>
    rcases Nat.lt_or_ge s.rxidx config.rxCap with hlt | hge
    · simp only [exec_rxEof_of_lt hlt, consumeEvent] at h
      split at h
      · cases h
      · rename_i hfc
        cases h
        exact .inr (.inr (.inr ⟨rfl, hlt, hfc⟩))
    · rw [exec_rxEof_of_ge hge] at h
      cases h

/-- Frame completion ends the wait or leaves the state as it is (R145). -/
theorem frameComplete_endWait_or_same {cfg : Config} {L : Nat} {st : Status} {s t : State}
    (h : frameComplete cfg L st s = .ok t) : (∃ e m, t = endWait e m s) ∨ t = s := by
  obtain ⟨-, ht⟩ | ⟨_, -, -, ⟨e, -, ht⟩ | ⟨m, -, -, ht⟩ | ⟨_, -, -, ht⟩⟩ := frameComplete_cases h
  · exact .inl ⟨_, _, ht⟩
  · exact .inl ⟨e, none, ht⟩
  · exact .inl ⟨.ok, some m, ht⟩
  · exact .inr ht

/-- Frame completion does not write the assembler. -/
theorem frameComplete_assembler {cfg : Config} {L : Nat} {st : Status} {s t : State}
    (h : frameComplete cfg L st s = .ok t) : t.rxbuf = s.rxbuf ∧ t.rxidx = s.rxidx := by
  obtain ⟨_, _, rfl⟩ | rfl := frameComplete_endWait_or_same h <;> exact ⟨rfl, rfl⟩

/-- A receive row writes neither stream and gives no response (R36, R37, R42). -/
theorem exec_receive_streams {i : Instr} {s t : State} (hi : i.isCommand = false) (h : exec i s = .next t) :
    t.rxq = s.rxq ∧ t.txlog = s.txlog ∧ t.responses = s.responses := by
  obtain ⟨-, rfl⟩ | ⟨-, rfl⟩ | ⟨b, -, rfl⟩ | ⟨-, -, hfc⟩ := exec_receive_cases hi h
  · exact ⟨rfl, rfl, rfl⟩
  · exact ⟨rfl, rfl, rfl⟩
  · obtain ⟨-, ht⟩ | ⟨-, ht⟩ := asmData_cases config b s <;> rw [ht] <;> exact ⟨rfl, rfl, rfl⟩
  · obtain ⟨_, _, rfl⟩ | rfl := frameComplete_endWait_or_same hfc <;> exact ⟨rfl, rfl, rfl⟩

end Sys2Proof.Machine
end

section
/-! PROOFS. What a host command answers and what it leaves unchanged (R42, R43, R82, R84, R152), and the streams along a
step (R36, R37). -/

namespace Sys2Proof.Machine

open Sys2Proof.Safety

/-! ### The status of a response -/

/-- The codes of R82 end at 0x0C, and 0x01 is AllocationFailure's alone. -/
theorem status_code_bounds {st : Status} (h : st ≠ .allocationFailure) :
    st.code.toNat ≤ 0x0C ∧ st.code ≠ 0x01#8 := by
  cases st with
  | allocationFailure => exact absurd rfl h
  | ok | invalidStart | lengthMismatch | checksumMismatch | missingTerminator | truncatedEscape | unrecognizedEscape
  | payloadTooLarge | timeout | pending | noWait | illegalCommand => decide

/-- A frame that is not accepted gives a failure that RES_STATUS may hold (R35, R129). -/
theorem parse_error {cfg : Config} {f : List Byte} {e : Status} (h : parse cfg f = .error e) :
    e ≠ .ok ∧ e.legalResult = true := by
  unfold parse at h
  repeat' split at h
  all_goals cases h
  all_goals decide

/-- A built frame's payload has at most 247 bytes (R127). -/
theorem build_ok_length {cfg : Config} {dest cmd : Byte} {payload f : List Byte}
    (h : build cfg dest cmd payload = .ok f) : payload.length ≤ 247 := by
  unfold build at h
  split at h
  · cases h
  · rename_i hlen
    simp only [maxTotal, overhead] at hlen
    omega

theorem build_error {cfg : Config} {dest cmd : Byte} {payload : List Byte} {e : Status}
    (h : build cfg dest cmd payload = .error e) : e = .payloadTooLarge := by
  unfold build at h
  split at h <;> cases h
  rfl

theorem legalResult_ne_allocationFailure {st : Status} (h : st.legalResult = true) : st ≠ .allocationFailure := by
  rintro rfl
  cases h

theorem buildResponse_status (cfg : Config) (dest cmd : Byte) (payload : List Byte) :
    (buildResponse (build cfg dest cmd payload)).status ≠ .allocationFailure := by
  cases hb : build cfg dest cmd payload with
  | ok f => exact nofun
  | error e => cases build_error hb; exact nofun

theorem parseResponse_status (cfg : Config) (f : List Byte) :
    (parseResponse (parse cfg f)).status ≠ .allocationFailure := by
  cases hp : parse cfg f with
  | ok m => exact nofun
  | error e => exact legalResult_ne_allocationFailure (parse_error hp).2

theorem destuffResponse_status (r : Except DestuffError (List Byte)) :
    (destuffResponse r).status ≠ .allocationFailure := by
  obtain (_ | _) | _ := r <;> exact nofun

/-- RECV_POLL answers the held status in DONE, and a code of its own elsewhere (R144). -/
theorem pollResponse_status {s : State} (h : ResultLegal s) : (pollResponse s).status ≠ .allocationFailure := by
  unfold pollResponse
  split
  · exact nofun
  · exact nofun
  · rename_i hw
    split
    · exact nofun
    · exact legalResult_ne_allocationFailure (h hw)

/-! ### A host command's answer and its frame -/

/-- Each of the ten commands completes with exactly one response (R42, R139), and where the held result is legal its
status is not AllocationFailure (R84). -/
theorem exec_command_answers {i : Instr} (s : State) (hi : i.isCommand = true) :
    ∃ (t : State) (r : Response), exec i s = .next t ∧ t.responses = s.responses ++ [r.bytes] ∧
      (ResultLegal s → r.status ≠ .allocationFailure) := by
  cases i with
  | rxSof | rxEof | rxEsc | rxData => cases hi
  | crcUpdate | crcCompute | stuff | recvArm => exact ⟨_, _, rfl, rfl, fun _ => nofun⟩
  | destuff data => exact ⟨_, _, rfl, rfl, fun _ => destuffResponse_status _⟩
  | build dest cmd payload => exact ⟨_, _, rfl, rfl, fun _ => buildResponse_status config dest cmd payload⟩
  | parse frame => exact ⟨_, _, rfl, rfl, fun _ => parseResponse_status config frame⟩
  | recvPoll => exact ⟨_, _, rfl, rfl, pollResponse_status⟩
  | transmit dest cmd payload =>
    refine ⟨transmitFrame config dest cmd payload s, ?_⟩
    obtain ⟨st, hb, ht⟩ | ⟨f, -, ht⟩ := transmitFrame_cases config dest cmd payload s
    · cases build_error hb
      exact ⟨failResponse .payloadTooLarge, rfl, by rw [ht]; rfl, fun _ => nofun⟩
    · exact ⟨{ status := .ok, fields := len16 (stuff f).2 ++ len16 (stuff f).1.length }, rfl, by rw [ht]; rfl,
        fun _ => nofun⟩
  | recvAbort =>
    obtain ⟨-, ht⟩ | ⟨-, ht⟩ := execRecvAbort_cases s <;>
      exact ⟨_, _, ht, rfl, fun _ => nofun⟩

/-- No host command writes the assembler, RXQ or the agenda (R40, R43). -/
theorem exec_command_frame {i : Instr} {s t : State} (hi : i.isCommand = true) (h : exec i s = .next t) :
    t.rxbuf = s.rxbuf ∧ t.rxidx = s.rxidx ∧ t.escp = s.escp ∧ t.escerr = s.escerr ∧ t.rxq = s.rxq ∧
      t.agenda = s.agenda := by
  obtain ⟨_, rfl⟩ | ⟨_, _, _, _, -, -, rfl⟩ | ⟨_, _, -, rfl⟩ | ⟨-, -, rfl⟩ := exec_command_cases hi h
  all_goals exact ⟨rfl, rfl, rfl, rfl, rfl, rfl⟩

/-- Settles O44: every command answers a next state, and its frame is the one of all ten. -/
theorem hostCommandsLeaveAssembler : Obligations.HostCommandsLeaveAssembler := by
  intro i s hi
  obtain ⟨t, _, ht, -, -⟩ := exec_command_answers s hi
  exact ⟨t, ht, exec_command_frame hi ht⟩

/-- Settles O46: an illegal string answers 0x0C, a command its one response; no other kind of step responds. -/
theorem oneResponsePerHostStep : Obligations.OneResponsePerHostStep := by
  intro s e ag hag hlegal
  constructor
  · rintro op rest rfl
    cases hd : decode (.command (op :: rest)) with
    | error err =>
      exact ⟨_, 0x0C#8, [], step_of_illegal hag hd, rfl, by decide, by decide⟩
    | ok i =>
      obtain ⟨t, r, ht, hr, hst⟩ := exec_command_answers { s with agenda := ag } (decodeCommand_isCommand hd)
      exact ⟨t, r.status.code, r.fields, (step_of_command hag hd).trans ht, hr, status_code_bounds (hst hlegal)⟩
  · intro hne t ht
    obtain ⟨-, rfl⟩ | ⟨e', ag', hag', hcase⟩ := step_next_cases ht
    · rfl
    · obtain ⟨rfl, rfl⟩ := List.cons.inj (hag.symm.trans hag')
      obtain ⟨-, rfl⟩ | ⟨_, -, rfl⟩ | ⟨-, -, rfl⟩ | ⟨b, _, -, -, -, hx⟩ | ⟨op, rest, _, he, -⟩ |
        ⟨op, rest, _, he, -⟩ := hcase
      · rfl
      · rfl
      · rfl
      · obtain ⟨-, -, hresp⟩ := exec_receive_streams (decodeByte_isCommand b) hx
        exact hresp
      · exact absurd he (hne op rest)
      · exact absurd he (hne op rest)

/-! ### The streams along a step -/

/-- A host command leaves TXLOG as it is, or it is a TRANSMIT that was not rejected (R36, R140). -/
theorem exec_command_txlog {i : Instr} {s t : State} (hi : i.isCommand = true) (h : exec i s = .next t) :
    t.txlog = s.txlog ∨
    ∃ dest cmd payload bs, i = .transmit dest cmd payload ∧ payload.length ≤ 247 ∧ t.txlog = s.txlog ++ bs := by
  obtain ⟨_, rfl⟩ | ⟨dest, cmd, payload, f, hi', hb, rfl⟩ | ⟨_, _, -, rfl⟩ | ⟨-, -, rfl⟩ := exec_command_cases hi h
  · exact .inl rfl
  · exact .inr ⟨dest, cmd, payload, _, hi', build_ok_length hb, rfl⟩
  · exact .inl rfl
  · exact .inl rfl

/-- TXLOG along a step: as before, or appended to by a TRANSMIT that was not rejected. -/
theorem step_txlog {s t : State} (h : step s = .next t) :
    t.txlog = s.txlog ∨
    ∃ op rest ag dest cmd payload bs, s.agenda = .host op rest :: ag ∧
      decode (.command (op :: rest)) = .ok (.transmit dest cmd payload) ∧ payload.length ≤ 247 ∧
      t.txlog = s.txlog ++ bs := by
  obtain ⟨-, rfl⟩ | ⟨e, ag, hag, hcase⟩ := step_next_cases h
  · exact .inl rfl
  · obtain ⟨-, rfl⟩ | ⟨_, -, rfl⟩ | ⟨-, -, rfl⟩ | ⟨b, _, -, -, -, hx⟩ | ⟨_, _, _, -, -, rfl⟩ |
      ⟨op, rest, i, rfl, hd, hx⟩ := hcase
    · exact .inl rfl
    · exact .inl rfl
    · exact .inl rfl
    · obtain ⟨-, htx, -⟩ := exec_receive_streams (decodeByte_isCommand b) hx
      exact .inl htx
    · exact .inl rfl
    · obtain htx | ⟨dest, cmd, payload, bs, rfl, hlen, htx⟩ :=
        exec_command_txlog (decodeCommand_isCommand hd) hx
      · exact .inl htx
      · exact .inr ⟨op, rest, ag, dest, cmd, payload, bs, hag, hd, hlen, htx⟩

/-- Settles O47: the two cases of `step_txlog`. -/
theorem onlyTransmitAppendsToTxlog : Obligations.OnlyTransmitAppendsToTxlog := by
  intro s t h
  obtain htx | ⟨op, rest, ag, dest, cmd, payload, bs, hag, hd, hlen, htx⟩ := step_txlog h
  · exact ⟨htx ▸ List.prefix_refl _, fun hne => absurd htx hne⟩
  · exact ⟨htx ▸ List.prefix_append _ _, fun _ => ⟨op, rest, ag, dest, cmd, payload, hag, hd, hlen⟩⟩

/-- Settles O48: only a feed and an enabled receive turn touch RXQ; the meanings themselves do not. -/
theorem onlyReceiveTakesFromRxq : Obligations.OnlyReceiveTakesFromRxq := by
  intro s t h
  obtain ⟨-, rfl⟩ | ⟨e, ag, hag, hcase⟩ := step_next_cases h
  · exact .inl rfl
  · obtain ⟨-, rfl⟩ | ⟨bs, rfl, rfl⟩ | ⟨-, -, rfl⟩ | ⟨b, q, rfl, hw, hq, hx⟩ | ⟨_, _, _, -, -, rfl⟩ |
      ⟨_, _, _, -, hd, hx⟩ := hcase
    · exact .inl rfl
    · exact .inr (.inl ⟨bs, ag, hag, rfl⟩)
    · exact .inl rfl
    · obtain ⟨hrxq, -, -⟩ := exec_receive_streams (decodeByte_isCommand b) hx
      exact .inr (.inr ⟨b, ag, hag, hw, by rw [hq, hrxq]⟩)
    · exact .inl rfl
    · obtain ⟨-, -, -, -, hrxq, -⟩ := exec_command_frame (decodeCommand_isCommand hd) hx
      exact .inl hrxq

end Sys2Proof.Machine
end

section
/-! PROOFS. What an instruction writes to RXBUF (R28, R40, R113, R116). -/

namespace Sys2Proof.Machine

/-- The three things an instruction can do to RXBUF: nothing, the terminator of an EOF at RXIDX, or the value of a data
byte that fits at RXIDX. -/
theorem exec_rxbuf_cases {i : Instr} {s t : State} (h : exec i s = .next t) :
    (t.rxbuf = s.rxbuf ∧ i ≠ .rxEof ∧ ∀ b, i = .rxData b → config.rxCap ≤ s.rxidx + 1) ∨
    (i = .rxEof ∧ t.rxbuf = Memory.write s.rxbuf s.rxidx 0x00#8) ∨
    (∃ b, i = .rxData b ∧ s.rxidx + 1 < config.rxCap ∧
      t.rxbuf = Memory.write s.rxbuf s.rxidx (dataValue s.escp b)) := by
  cases hi : i.isCommand with
  | true =>
    obtain ⟨hbuf, -⟩ := exec_command_frame hi h
    refine .inl ⟨hbuf, ?_, ?_⟩
    · rintro rfl
      cases hi
    · rintro b rfl
      cases hi
  | false =>
    obtain ⟨rfl, rfl⟩ | ⟨rfl, rfl⟩ | ⟨b, rfl, rfl⟩ | ⟨rfl, -, hfc⟩ := exec_receive_cases hi h
    · exact .inl ⟨rfl, nofun, fun _ => nofun⟩
    · exact .inl ⟨rfl, nofun, fun _ => nofun⟩
    · obtain ⟨hlt, ht⟩ | ⟨hge, ht⟩ := asmData_cases config b s
      · exact .inr (.inr ⟨b, rfl, hlt, by rw [ht]⟩)
      · exact .inl ⟨by rw [ht], nofun, fun _ _ => hge⟩
    · obtain ⟨hbuf, -⟩ := frameComplete_assembler hfc
      exact .inr (.inl ⟨rfl, hbuf⟩)

/-- Settles O43: a buffer left as it is reads as before, and a write at RXIDX shows there alone. -/
theorem rxBufferFrame : Obligations.RxBufferFrame := by
  intro i s t h
  obtain ⟨hbuf, heof, hdata⟩ | ⟨rfl, hbuf⟩ | ⟨b, rfl, hlt, hbuf⟩ := exec_rxbuf_cases h
  · have hread : ∀ a, Memory.read t.rxbuf a = Memory.read s.rxbuf a := fun a => by rw [hbuf]
    refine ⟨fun a _ => hread a, fun _ _ => hread, fun h => absurd h heof, fun b hb => ⟨fun hlt => ?_, fun _ => hread⟩⟩
    have := hdata b hb
    omega
  · rw [hbuf]
    exact ⟨fun a ha => Memory.read_write_other _ _ ha, fun _ h => absurd rfl h, fun _ => Memory.read_write_same _ _ _,
      fun _ => nofun⟩
  · rw [hbuf]
    refine ⟨fun a ha => Memory.read_write_other _ _ ha, fun h => absurd rfl (h b), nofun, ?_⟩
    rintro _ ⟨⟩
    exact ⟨fun _ => Memory.read_write_same _ _ _, fun hge => by omega⟩

end Sys2Proof.Machine
end

section
/-! PROOFS. The invariant in its two halves, the assembler's and the held result's, and one rule for each way a half is
kept (R29, R44, R48, R49). -/

namespace Sys2Proof.Safety

open Sys2Proof.Machine

/-- The assembler's half of the invariant: R48.1, the form of RXBUF and R44. It speaks of RXBUF and RXIDX alone. -/
def BodyGood (cfg : Config) (s : State) : Prop := IndexInRange cfg s ∧ BufferWf cfg s ∧ BodyWritten s

/-- The held result's half of the invariant: R48.2 to R48.4. It speaks of the wait's elements alone. -/
def ResultGood (s : State) : Prop := MessageOnlyWhenOk s ∧ ResultLegal s ∧ ResultMessage s

theorem inv_iff (cfg : Config) (s : State) : Inv cfg s ↔ BodyGood cfg s ∧ ResultGood s :=
  ⟨fun ⟨hidx, hwf, hbody, hresult⟩ => ⟨⟨hidx, hwf, hbody⟩, hresult⟩,
    fun ⟨⟨hidx, hwf, hbody⟩, hresult⟩ => ⟨hidx, hwf, hbody, hresult⟩⟩

/-! ### The assembler's half -/

theorem BodyGood.index_lt {cfg : Config} {s : State} (h : BodyGood cfg s) : s.rxidx < cfg.rxCap := h.1

/-- An unwritten buffer and an index that does not rise keep the assembler's half. -/
theorem BodyGood.of_index_le {cfg : Config} {s t : State} (h : BodyGood cfg s) (hbuf : t.rxbuf = s.rxbuf)
    (hidx : t.rxidx ≤ s.rxidx) : BodyGood cfg t := by
  obtain ⟨hrange, hwf, hbody⟩ := h
  refine ⟨by omega, ?_, fun i hi => ?_⟩
  · rwa [BufferWf, hbuf]
  · rw [hbuf]
    exact hbody i (by omega)

/-- A byte written at RXIDX, with the index at most one past it and in range, keeps the assembler's half. -/
theorem BodyGood.of_write {cfg : Config} {s t : State} {v : Byte} (h : BodyGood cfg s)
    (hbuf : t.rxbuf = Memory.write s.rxbuf s.rxidx v) (hidx : t.rxidx ≤ s.rxidx + 1)
    (hrange : t.rxidx < cfg.rxCap) : BodyGood cfg t := by
  have hlt := h.index_lt
  obtain ⟨-, ⟨hwf, hmem⟩, hbody⟩ := h
  refine ⟨hrange, ?_, fun i hi => ?_⟩
  · rw [BufferWf, hbuf]
    refine ⟨Memory.wf_write hwf _ _, fun c hc => ?_⟩
    obtain rfl | hc := Memory.mem_write hc
    · exact hlt
    · exact hmem c hc
  · rw [hbuf]
    by_cases hi' : i = s.rxidx
    · rw [hi', Memory.read_write_same]
      rfl
    · rw [Memory.read_write_other _ _ hi']
      exact hbody i (by omega)

/-! ### The held result's half -/

/-- The held result's half holds on when the wait's elements are as before. -/
theorem ResultGood.of_same_wait {s t : State} (h : ResultGood s) (hw : t.wstate = s.wstate)
    (hst : t.resStatus = s.resStatus) (hm : t.resMsg = s.resMsg) (hsrc : t.expSrc = s.expSrc)
    (hcmd : t.expCmd = s.expCmd) : ResultGood t := by
  simpa only [ResultGood, MessageOnlyWhenOk, ResultLegal, ResultMessage, MessageOfWait, hw, hst, hm, hsrc, hcmd] using h

/-- Outside DONE, holding no message is enough. -/
theorem resultGood_of_not_done {s : State} (hw : s.wstate ≠ .done) (hm : s.resMsg = none) : ResultGood s :=
  ⟨fun h => absurd hm h, fun h => absurd h hw, fun h => absurd h hw⟩

/-- A wait may end with any failure RES_STATUS may hold, and no message (R35). -/
theorem resultGood_endWait_failure {st : Status} (s : State) (hne : st ≠ .ok) (hlegal : st.legalResult = true) :
    ResultGood (endWait st none s) :=
  ⟨fun h => absurd rfl h, fun _ => hlegal, fun _ h => absurd h hne⟩

/-- A wait may end with OK and a message of the wait. -/
theorem resultGood_endWait_message {s : State} {m : Message} (hm : MessageOfWait s m) :
    ResultGood (endWait .ok (some m) s) :=
  ⟨fun _ => ⟨rfl, rfl⟩, fun _ => rfl, fun _ _ => ⟨m, rfl, hm⟩⟩

end Sys2Proof.Safety
end

section
/-! PROOFS. Every step keeps the invariant (R48), and from a good state every step answers (R62). -/

namespace Sys2Proof.Machine

open Sys2Proof.Safety

/-! ### What completes a frame -/

/-- The status an EOF gives is OK or one that RES_STATUS may hold (R35, R113). -/
theorem eofStatus_legal (escp escerr : Bool) : (eofStatus escp escerr).legalResult = true := by
  cases escerr <;> cases escp <;> rfl

/-- A message that is accepted and matches is the message R48.4 describes: its length field is the frame's length, and its
payload is what the eight bytes of overhead leave. -/
theorem messageOfWait_of_parse {cfg : Config} {f : List Byte} {m : Message} {s : State} (hp : parse cfg f = .ok m)
    (hm : matchesWait cfg m s = true) : MessageOfWait s m := by
  obtain ⟨hmin, hlen, hpayload, -, -, -⟩ := parse_ok hp
  simp only [matchesWait, Bool.and_eq_true, decide_eq_true_eq] at hm
  obtain ⟨⟨hsrc, hcmd⟩, -⟩ := hm
  have hmax : m.len.toNat < 2 ^ 8 := m.len.isLt
  refine ⟨hlen ▸ hmin, Nat.le_of_lt_succ hmax, ?_, hsrc, hcmd⟩
  rw [hpayload, hlen]
  simp only [slice, List.length_drop, List.length_take, headerLen, overhead]
  omega

/-- Frame completion leaves a good result: the old one, a legal failure, or the message of the wait (R145). -/
theorem frameComplete_resultGood {cfg : Config} {L : Nat} {st : Status} {s t : State} (hst : st.legalResult = true)
    (hs : ResultGood s) (h : frameComplete cfg L st s = .ok t) : ResultGood t := by
  obtain ⟨hne, rfl⟩ | ⟨_, -, -, ⟨e, hp, rfl⟩ | ⟨m, hp, hm, rfl⟩ | ⟨_, -, -, rfl⟩⟩ := frameComplete_cases h
  · exact resultGood_endWait_failure s hne hst
  · obtain ⟨hne, hlegal⟩ := parse_error hp
    exact resultGood_endWait_failure s hne hlegal
  · exact resultGood_endWait_message (messageOfWait_of_parse hp hm)
  · exact hs

/-- Frame completion over a body that has been written answers (R44). -/
theorem frameComplete_answers (cfg : Config) {L : Nat} (st : Status) {s : State}
    (h : ∀ i < L, (Memory.read s.rxbuf i).isSome = true) : ∃ t, frameComplete cfg L st s = .ok t := by
  obtain ⟨body, hbody, -⟩ := rxbufBody_ok_of_written h
  by_cases hst : st = .ok
  · exact ⟨completeParsed cfg s (parse cfg (rebuildFrame body)), by simp [frameComplete, hst, hbody]⟩
  · exact ⟨endWait st none s, by simp [frameComplete, hst]⟩

/-! ### Each half along an instruction -/

/-- Every instruction keeps the assembler's half: commands do not touch it, SOF and EOF restart the body, and a data byte
is stored at RXIDX or dropped. -/
theorem exec_keeps_bodyGood {i : Instr} {s t : State} (hs : BodyGood config s) (h : exec i s = .next t) :
    BodyGood config t := by
  cases hi : i.isCommand with
  | true =>
    obtain ⟨hbuf, hidx, -⟩ := exec_command_frame hi h
    exact hs.of_index_le hbuf hidx.le
  | false =>
    obtain ⟨-, rfl⟩ | ⟨-, rfl⟩ | ⟨b, -, rfl⟩ | ⟨-, hlt, hfc⟩ := exec_receive_cases hi h
    · exact hs.of_index_le rfl (Nat.zero_le _)
    · exact hs.of_index_le rfl le_rfl
    · obtain ⟨hlt, ht⟩ | ⟨-, ht⟩ := asmData_cases config b s <;> rw [ht]
      · exact hs.of_write rfl le_rfl hlt
      · exact hs.of_index_le rfl le_rfl
    · obtain ⟨hbuf, hidx⟩ := frameComplete_assembler hfc
      have hidx : t.rxidx = 0 := hidx
      exact hs.of_write hbuf (by omega) (by omega)

/-- Every instruction keeps the held result's half: only RECV_ARM, RECV_ABORT and RX_EOF write the wait. -/
theorem exec_keeps_resultGood {i : Instr} {s t : State} (hs : ResultGood s) (h : exec i s = .next t) :
    ResultGood t := by
  cases hi : i.isCommand with
  | true =>
    obtain ⟨_, rfl⟩ | ⟨_, _, _, _, -, -, rfl⟩ | ⟨src, cmd, -, rfl⟩ | ⟨-, -, rfl⟩ := exec_command_cases hi h
    · exact hs.of_same_wait rfl rfl rfl rfl rfl
    · exact hs.of_same_wait rfl rfl rfl rfl rfl
    · exact resultGood_of_not_done nofun rfl
    · exact (resultGood_endWait_failure (st := .timeout) s nofun rfl).of_same_wait rfl rfl rfl rfl rfl
  | false =>
    obtain ⟨-, rfl⟩ | ⟨-, rfl⟩ | ⟨b, -, rfl⟩ | ⟨-, -, hfc⟩ := exec_receive_cases hi h
    · exact hs.of_same_wait rfl rfl rfl rfl rfl
    · exact hs.of_same_wait rfl rfl rfl rfl rfl
    · obtain ⟨-, ht⟩ | ⟨-, ht⟩ := asmData_cases config b s <;> rw [ht] <;>
        exact hs.of_same_wait rfl rfl rfl rfl rfl
    · have hd : ResultGood (Claims.delivered s) := hs.of_same_wait rfl rfl rfl rfl rfl
      exact frameComplete_resultGood (eofStatus_legal _ _) hd hfc

/-- Every instruction keeps the invariant. -/
theorem exec_keeps_inv {i : Instr} {s t : State} (hs : Inv config s) (h : exec i s = .next t) : Inv config t := by
  obtain ⟨hbody, hresult⟩ := (inv_iff config s).mp hs
  exact (inv_iff config t).mpr ⟨exec_keeps_bodyGood hbody h, exec_keeps_resultGood hresult h⟩

/-- The reset event leaves a good state (R169): the body is empty and no result is held. -/
theorem resetEvent_keeps_inv {cfg : Config} {s : State} (hs : Inv cfg s) : Inv cfg (resetEvent s) := by
  obtain ⟨hbody, -⟩ := (inv_iff cfg s).mp hs
  exact (inv_iff cfg _).mpr ⟨hbody.of_index_le rfl (Nat.zero_le _), resultGood_of_not_done nofun rfl⟩

/-- The invariant does not speak of the streams, the responses or the agenda. -/
theorem inv_of_same_streams {cfg : Config} {s : State} (hs : Inv cfg s) (q tx : List Byte) (rs : List (List Byte))
    (ag : List Event) : Inv cfg { s with rxq := q, txlog := tx, responses := rs, agenda := ag } := hs

/-- Settles O52: a settled event leaves both halves or is the reset, and every instruction keeps them. -/
theorem stepKeepsInvariant : Obligations.StepKeepsInvariant := by
  intro s t hs h
  obtain ⟨-, rfl⟩ | ⟨_, ag, -, hcase⟩ := step_next_cases h
  · exact hs
  · have hpast : ∀ q, Inv config { s with agenda := ag, rxq := q } := fun q =>
      inv_of_same_streams hs q s.txlog s.responses ag
    obtain ⟨-, rfl⟩ | ⟨bs, -, rfl⟩ | ⟨-, -, rfl⟩ | ⟨_, q, -, -, -, hx⟩ | ⟨_, _, _, -, -, rfl⟩ |
      ⟨_, _, _, -, -, hx⟩ := hcase
    · exact resetEvent_keeps_inv (hpast s.rxq)
    · exact hpast (s.rxq ++ bs)
    · exact hpast s.rxq
    · exact exec_keeps_inv (hpast q) hx
    · exact hpast s.rxq
    · exact exec_keeps_inv (hpast s.rxq) hx

/-- Settles O51: after reset no byte is collected and no wait is armed. -/
theorem startMeetsInvariant : Obligations.StartMeetsInvariant :=
  (inv_iff config State.reset).mpr
    ⟨⟨by decide, ⟨rfl, nofun⟩, nofun⟩, resultGood_of_not_done nofun rfl⟩

/-! ### Progress -/

/-- From a good body every receive row answers: the EOF's terminator is in range and its body has been written. -/
theorem exec_receive_answers {i : Instr} {s : State} (hi : i.isCommand = false) (hs : BodyGood config s) :
    ∃ t, exec i s = .next t := by
  cases i with
  | crcUpdate | crcCompute | stuff | destuff | build | parse | transmit | recvArm | recvAbort | recvPoll => cases hi
  | rxSof => exact ⟨asmSof s, rfl⟩
  | rxEsc => exact ⟨asmEsc s, rfl⟩
  | rxData b => exact ⟨asmData config b s, rfl⟩
  | rxEof =>
    have hbody : ∀ i < s.rxidx, (Memory.read (Claims.delivered s).rxbuf i).isSome = true := fun i hi => by
      obtain ⟨-, -, hwritten⟩ := hs
      rw [Claims.delivered, Memory.read_write_other _ _ hi.ne]
      exact hwritten i hi
    obtain ⟨t, ht⟩ := frameComplete_answers config (eofStatus s.escp s.escerr) hbody
    exact ⟨t, by simp only [exec_rxEof_of_lt hs.index_lt, consumeEvent, ht]⟩

/-- Settles O53: by the event at the head of the agenda; only a received byte needs the invariant. -/
theorem goodStateStepAnswers : Obligations.GoodStateStepAnswers := by
  intro s hs
  cases hag : s.agenda with
  | nil => exact ⟨s, step_of_idle hag⟩
  | cons e ag =>
    cases e with
    | reset => exact ⟨_, step_of_reset hag⟩
    | feed bs => exact ⟨_, step_of_feed hag⟩
    | host op rest =>
      cases hd : decode (.command (op :: rest)) with
      | error err => exact ⟨_, step_of_illegal hag hd⟩
      | ok i =>
        rw [step_of_command hag hd]
        obtain ⟨t, _, ht, -⟩ := exec_command_answers { s with agenda := ag } (decodeCommand_isCommand hd)
        exact ⟨t, ht⟩
    | receive =>
      cases he : receiveEnabled s with
      | false => exact ⟨_, step_of_receive_skipped hag he⟩
      | true =>
        obtain ⟨hw, b, q, hq⟩ := (receiveEnabled_iff s).mp he
        obtain ⟨hbody, -⟩ := (inv_iff config s).mp hs
        rw [step_of_receive_taken hag hw hq]
        exact exec_receive_answers (decodeByte_isCommand b) (hbody.of_index_le rfl le_rfl)

end Sys2Proof.Machine
end

section
/-! PROOFS. The model's own choices in states that no run reaches (log 7, log 8, log 21). -/

namespace Sys2Proof.Machine

/-- A body read faults at the first byte that nothing has written (log 7). -/
theorem rxbufFrom_unwritten {m : Memory} {i n k : Nat} (hk : k < n)
    (hwritten : ∀ j < k, (Memory.read m (i + j)).isSome = true) (hnone : Memory.read m (i + k) = none) :
    rxbufFrom m i n = .error (.rxbufUnwritten (i + k)) := by
  induction k generalizing i n with
  | zero =>
    obtain ⟨n, rfl⟩ := Nat.exists_eq_add_one.mpr hk
    simp only [Nat.add_zero] at hnone ⊢
    simp [rxbufFrom, hnone]
  | succ k ih =>
    obtain ⟨n, rfl⟩ := Nat.exists_eq_add_one.mpr (Nat.zero_lt_of_lt hk)
    obtain ⟨v, hv⟩ := Option.isSome_iff_exists.mp (hwritten 0 (by omega))
    have hshift : ∀ j, i + 1 + j = i + (j + 1) := fun j => by omega
    have hrest : rxbufFrom m (i + 1) n = .error (.rxbufUnwritten (i + (k + 1))) := by
      rw [← hshift k]
      refine ih (Nat.lt_of_succ_lt_succ hk) (fun j hj => ?_) ?_
      · rw [hshift]
        exact hwritten (j + 1) (Nat.succ_lt_succ hj)
      · rw [hshift]
        exact hnone
    simp only [Nat.add_zero] at hv
    simp [rxbufFrom, hv, hrest]

/-- An EOF without a bad escape faults at the first unwritten byte of its body: the terminator lies past the body. -/
theorem exec_rxEof_unwritten {s : State} {j : Nat} (hlt : s.rxidx < config.rxCap) (hp : s.escp = false)
    (he : s.escerr = false) (hj : j < s.rxidx) (hwritten : ∀ i < j, (Memory.read s.rxbuf i).isSome = true)
    (hnone : Memory.read s.rxbuf j = none) : exec .rxEof s = .fault (.rxbufUnwritten j) := by
  have hread : ∀ i < s.rxidx, Memory.read (Claims.delivered s).rxbuf i = Memory.read s.rxbuf i := fun i hi =>
    Memory.read_write_other _ _ hi.ne
  have hbody : rxbufBody (Claims.delivered s).rxbuf s.rxidx = .error (.rxbufUnwritten j) := by
    have hfault := rxbufFrom_unwritten (m := (Claims.delivered s).rxbuf) (i := 0) hj
      (fun i hi => by rw [Nat.zero_add, hread i (hi.trans hj)]; exact hwritten i hi)
      (by rw [Nat.zero_add, hread j hj]; exact hnone)
    rwa [Nat.zero_add] at hfault
  simp [exec_rxEof_of_lt hlt, consumeEvent, frameComplete, eofStatus, hp, he, hbody]

/-- Settles O59: the two faults of an EOF, and the poll of an OK result without a message. -/
theorem outsideTheInvariant : Obligations.OutsideTheInvariant := by
  intro s
  refine ⟨exec_rxEof_of_ge, fun hlt hp he j hj hwritten hnone => exec_rxEof_unwritten hlt hp he hj hwritten hnone,
    fun hw hst hm => ?_⟩
  have hpoll : pollResponse s = failResponse .ok := by simp [pollResponse, hw, hst, hm]
  show Host.Outcome.next (respond (pollResponse s) s) = _
  rw [hpoll]
  rfl

end Sys2Proof.Machine
end

section
/-! PROOFS. The decoder accepts exactly the encodings (R75 to R80): one `↔` for each command format, read in one direction
for the round trip of an instruction and in the other for that of an input. -/

namespace Sys2Proof.Machine

/-! ### Length fields -/

/-- The value of a big-endian field (R78). -/
theorem be16_toNat (h l : Byte) : (be16 h l).toNat = 256 * h.toNat + l.toNat := by
  have hh : h.toNat <<< 8 < 2 ^ 16 := by have := h.isLt; rw [Nat.shiftLeft_eq]; omega
  have hl : l.toNat < 2 ^ 8 := l.isLt
  calc (be16 h l).toNat
      = h.toNat <<< 8 ||| l.toNat := by
        simp only [be16, zext16, BitVec.toNat_or, BitVec.toNat_shiftLeft, BitVec.toNat_setWidth]
        rw [Nat.mod_eq_of_lt (show h.toNat < 2 ^ 16 by omega), Nat.mod_eq_of_lt hh,
          Nat.mod_eq_of_lt (show l.toNat < 2 ^ 16 by omega)]
    _ = 256 * h.toNat + l.toNat := by rw [← Nat.shiftLeft_add_eq_or_of_lt hl, Nat.shiftLeft_eq]; omega

/-- Two bytes are the length field of a sequence exactly where they hold its length (R77, R78). -/
theorem length_field_iff (h l : Byte) (data : List Byte) :
    data.length = (be16 h l).toNat ↔ seqFits data = true ∧ [h, l] = len16 data.length := by
  simp only [seqFits, decide_eq_true_eq]
  constructor
  · intro hlen
    have hbound := (be16 h l).isLt
    refine ⟨by unfold maxOperand; omega, ?_⟩
    rw [hlen, len16, BitVec.ofNat_toNat, BitVec.setWidth_eq, u16Bytes, hi_be16, lo_be16]
  · rintro ⟨hfit, hfield⟩
    obtain ⟨rfl, rfl⟩ : h = hi (BitVec.ofNat 16 data.length) ∧ l = lo (BitVec.ofNat 16 data.length) := by
      simpa [len16, u16Bytes] using hfield
    exact (be16_len16_toNat hfit).symm

/-! ### What each format accepts (R79) -/

theorem operandsN_eq_ok_iff {j i : Instr} {l : List Byte} : operandsN j l = .ok i ↔ l = [] ∧ i = j :=
  ⟨operandsN_ok, by rintro ⟨rfl, rfl⟩; rfl⟩

theorem operandsA2_eq_ok_iff {k : Byte → Byte → Instr} {l : List Byte} {i : Instr} :
    operandsA2 k l = .ok i ↔ ∃ a b, l = [a, b] ∧ i = k a b :=
  ⟨operandsA2_ok, by rintro ⟨a, b, rfl, rfl⟩; rfl⟩

theorem operandsCU_eq_ok_iff {k : Word16 → Byte → Instr} {l : List Byte} {i : Instr} :
    operandsCU k l = .ok i ↔ ∃ c b, l = u16Bytes c ++ [b] ∧ i = k c b := by
  constructor
  · intro h
    obtain ⟨hb, lb, b, rfl, rfl⟩ := operandsCU_ok h
    exact ⟨be16 hb lb, b, by simp [u16Bytes], rfl⟩
  · rintro ⟨c, b, rfl, rfl⟩
    simp [operandsCU, u16Bytes]

theorem operandsS_eq_ok_iff {k : List Byte → Instr} {l : List Byte} {i : Instr} :
    operandsS k l = .ok i ↔ ∃ data, seqFits data = true ∧ l = len16 data.length ++ data ∧ i = k data := by
  constructor
  · intro h
    obtain ⟨hb, lb, data, rfl, hlen, rfl⟩ := operandsS_ok h
    obtain ⟨hfit, hfield⟩ := (length_field_iff hb lb data).mp hlen
    exact ⟨data, hfit, by rw [← hfield]; rfl, rfl⟩
  · rintro ⟨data, hfit, rfl, rfl⟩
    exact if_pos ((length_field_iff _ _ data).mpr ⟨hfit, rfl⟩)

theorem operandsDCS_eq_ok_iff {k : Byte → Byte → List Byte → Instr} {l : List Byte} {i : Instr} :
    operandsDCS k l = .ok i ↔
      ∃ d c data, seqFits data = true ∧ l = d :: c :: len16 data.length ++ data ∧ i = k d c data := by
  constructor
  · intro h
    obtain ⟨d, c, hb, lb, data, rfl, hlen, rfl⟩ := operandsDCS_ok h
    obtain ⟨hfit, hfield⟩ := (length_field_iff hb lb data).mp hlen
    exact ⟨d, c, data, hfit, by rw [List.cons_append, List.cons_append, ← hfield]; rfl, rfl⟩
  · rintro ⟨d, c, data, hfit, rfl, rfl⟩
    exact if_pos ((length_field_iff _ _ data).mpr ⟨hfit, rfl⟩)

/-! ### The two round trips -/

/-- Settles O1: the decoder selects the row by the encoding's first byte, and the row's format accepts the rest. -/
theorem decodeOfEncodeIsIdentity : Obligations.DecodeOfEncodeIsIdentity := by
  intro i hi
  cases i with
  | crcUpdate c b => exact operandsCU_eq_ok_iff.mpr ⟨c, b, rfl, rfl⟩
  | crcCompute d | stuff d | destuff d | parse d => exact operandsS_eq_ok_iff.mpr ⟨d, hi, rfl, rfl⟩
  | build d c p | transmit d c p => exact operandsDCS_eq_ok_iff.mpr ⟨d, c, p, hi, rfl, rfl⟩
  | recvArm a b => exact operandsA2_eq_ok_iff.mpr ⟨a, b, rfl, rfl⟩
  | recvAbort | recvPoll => exact operandsN_eq_ok_iff.mpr ⟨rfl, rfl⟩
  | rxSof | rxEof | rxEsc => rfl
  | rxData b => exact congrArg Except.ok (decodeByte_data (of_decide_eq_true hi))

/-- What a row of format S accepts is the encoding of its command, where the row is encoded in that format. -/
theorem encode_of_operandsS {op : Byte} {k : List Byte → Instr} {rest : List Byte} {i : Instr}
    (hwf : ∀ data, (k data).wf = seqFits data)
    (henc : ∀ data, encode (k data) = .command (op :: len16 data.length ++ data)) (h : operandsS k rest = .ok i) :
    i.wf = true ∧ encode i = .command (op :: rest) := by
  obtain ⟨data, hfit, rfl, rfl⟩ := operandsS_eq_ok_iff.mp h
  exact ⟨(hwf data).trans hfit, henc data⟩

/-- The same for format DCS. -/
theorem encode_of_operandsDCS {op : Byte} {k : Byte → Byte → List Byte → Instr} {rest : List Byte} {i : Instr}
    (hwf : ∀ d c data, (k d c data).wf = seqFits data)
    (henc : ∀ d c data, encode (k d c data) = .command (op :: d :: c :: len16 data.length ++ data))
    (h : operandsDCS k rest = .ok i) : i.wf = true ∧ encode i = .command (op :: rest) := by
  obtain ⟨d, c, data, hfit, rfl, rfl⟩ := operandsDCS_eq_ok_iff.mp h
  exact ⟨(hwf d c data).trans hfit, henc d c data⟩

/-- A command string that decodes is the encoding of its command, by the row of its opcode (R79, R80). -/
theorem encode_of_decodeCommand {op : Byte} {rest : List Byte} {i : Instr} (h : decodeCommand (op :: rest) = .ok i) :
    i.wf = true ∧ encode i = .command (op :: rest) := by
  obtain ⟨rfl, h⟩ | ⟨rfl, h⟩ | ⟨rfl, h⟩ | ⟨rfl, h⟩ | ⟨rfl, h⟩ | ⟨rfl, h⟩ | ⟨rfl, h⟩ | ⟨rfl, h⟩ | ⟨rfl, h⟩ | ⟨rfl, h⟩ :=
    decodeCommand_ok h
  · obtain ⟨c, b, rfl, rfl⟩ := operandsCU_eq_ok_iff.mp h
    exact ⟨rfl, rfl⟩
  · exact encode_of_operandsS (fun _ => rfl) (fun _ => rfl) h
  · exact encode_of_operandsS (fun _ => rfl) (fun _ => rfl) h
  · exact encode_of_operandsS (fun _ => rfl) (fun _ => rfl) h
  · exact encode_of_operandsDCS (fun _ _ _ => rfl) (fun _ _ _ => rfl) h
  · exact encode_of_operandsS (fun _ => rfl) (fun _ => rfl) h
  · exact encode_of_operandsDCS (fun _ _ _ => rfl) (fun _ _ _ => rfl) h
  · obtain ⟨a, b, rfl, rfl⟩ := operandsA2_eq_ok_iff.mp h
    exact ⟨rfl, rfl⟩
  · obtain ⟨rfl, rfl⟩ := operandsN_eq_ok_iff.mp h
    exact ⟨rfl, rfl⟩
  · obtain ⟨rfl, rfl⟩ := operandsN_eq_ok_iff.mp h
    exact ⟨rfl, rfl⟩

/-- A received byte is the encoding of the instruction of its class (R75). -/
theorem encode_decodeByte (b : Byte) : (decodeByte b).wf = true ∧ encode (decodeByte b) = .received b := by
  by_cases hs : b = sofByte
  · exact hs ▸ ⟨rfl, rfl⟩
  by_cases hf : b = eofByte
  · exact hf ▸ ⟨rfl, rfl⟩
  by_cases he : b = escByte
  · exact he ▸ ⟨rfl, rfl⟩
  have hd : rxClass b = .data := (rxClass_eq_data_iff b).mpr ⟨hs, hf, he⟩
  rw [decodeByte_data hd]
  exact ⟨decide_eq_true hd, rfl⟩

/-- Settles O2: in each of the two spaces, what decodes is an encoding. -/
theorem encodeOfDecodeIsIdentity : Obligations.EncodeOfDecodeIsIdentity := by
  intro w i h
  match w with
  | .command [] => cases h
  | .command (op :: rest) => exact encode_of_decodeCommand h
  | .received b =>
    cases h
    exact encode_decodeByte b

/-- Settles O4: the decoder computes each of the fourteen. -/
theorem specWordsDecode : Obligations.SpecWordsDecode :=
  ⟨rfl, rfl, rfl, rfl, rfl, rfl, rfl, rfl, rfl, rfl, rfl, rfl, rfl, rfl⟩

/-- Settles O5: the three markers by their values, and every other byte, ACK among them, by `decodeByte_data`. -/
theorem receivedByteClasses : Obligations.ReceivedByteClasses := by
  intro b
  refine congrArg Except.ok ?_
  split_ifs with hs hf he
  · exact hs ▸ decodeByte_sof
  · exact hf ▸ decodeByte_eof
  · exact he ▸ decodeByte_esc
  · exact decodeByte_data ((rxClass_eq_data_iff b).mpr ⟨hs, hf, he⟩)

end Sys2Proof.Machine
end

section
/-! PROOFS. The steps that run no command: at an illegal command string (R83, R149), and at a receive turn that is not
enabled (R118). -/

namespace Sys2Proof.Machine

open Sys2Proof.Claims (impliedLength IllegalString)

/-! ### Each format accepts exactly the strings of its length (R79, R83) -/

theorem operandsN_accepts_iff {op : Byte} (hop : op = 0x09#8 ∨ op = 0x0A#8) (j : Instr) (l : List Byte) :
    (∃ i, operandsN j l = .ok i) ↔ impliedLength (op :: l) = some (l.length + 1) := by
  have himp : impliedLength (op :: l) = some 1 := by obtain rfl | rfl := hop <;> rfl
  match l with
  | [] => simp [himp, operandsN]
  | _ :: _ => simp [himp, operandsN]

theorem operandsA2_accepts_iff (k : Byte → Byte → Instr) (l : List Byte) :
    (∃ i, operandsA2 k l = .ok i) ↔ impliedLength (0x08#8 :: l) = some (l.length + 1) := by
  have himp : impliedLength (0x08#8 :: l) = some 3 := rfl
  match l with
  | [] | [_] | [_, _] => simp [himp, operandsA2]
  | _ :: _ :: _ :: _ => simp [himp, operandsA2]

theorem operandsCU_accepts_iff (k : Word16 → Byte → Instr) (l : List Byte) :
    (∃ i, operandsCU k l = .ok i) ↔ impliedLength (0x01#8 :: l) = some (l.length + 1) := by
  have himp : impliedLength (0x01#8 :: l) = some 4 := rfl
  match l with
  | [] | [_] | [_, _] | [_, _, _] => simp [himp, operandsCU]
  | _ :: _ :: _ :: _ :: _ => simp [himp, operandsCU]

theorem operandsS_accepts_iff {op : Byte} (hop : op = 0x02#8 ∨ op = 0x03#8 ∨ op = 0x04#8 ∨ op = 0x06#8)
    (k : List Byte → Instr) (l : List Byte) :
    (∃ i, operandsS k l = .ok i) ↔ impliedLength (op :: l) = some (l.length + 1) := by
  match l with
  | [] | [_] =>
    obtain rfl | rfl | rfl | rfl := hop <;> simp [impliedLength, operandsS]
  | h :: lb :: data =>
    have himp : impliedLength (op :: h :: lb :: data) = some (3 + (be16 h lb).toNat) := by
      rw [be16_toNat]
      obtain rfl | rfl | rfl | rfl := hop <;> rfl
    by_cases hlen : data.length = (be16 h lb).toNat
    · simp [himp, operandsS, hlen]
      omega
    · simp [himp, operandsS, hlen]
      omega

theorem operandsDCS_accepts_iff {op : Byte} (hop : op = 0x05#8 ∨ op = 0x07#8) (k : Byte → Byte → List Byte → Instr)
    (l : List Byte) : (∃ i, operandsDCS k l = .ok i) ↔ impliedLength (op :: l) = some (l.length + 1) := by
  match l with
  | [] | [_] | [_, _] | [_, _, _] =>
    obtain rfl | rfl := hop <;> simp [impliedLength, operandsDCS]
  | d :: c :: h :: lb :: data =>
    have himp : impliedLength (op :: d :: c :: h :: lb :: data) = some (5 + (be16 h lb).toNat) := by
      rw [be16_toNat]
      obtain rfl | rfl := hop <;> rfl
    by_cases hlen : data.length = (be16 h lb).toNat
    · simp [himp, operandsDCS, hlen]
      omega
    · simp [himp, operandsDCS, hlen]
      omega

/-! ### Illegal command strings -/

/-- A byte is one of R80's ten opcodes, or it is in R83's two ranges. -/
theorem opcode_cases (op : Byte) :
    op = 0x01#8 ∨ op = 0x02#8 ∨ op = 0x03#8 ∨ op = 0x04#8 ∨ op = 0x05#8 ∨ op = 0x06#8 ∨ op = 0x07#8 ∨ op = 0x08#8 ∨
      op = 0x09#8 ∨ op = 0x0A#8 ∨ op = 0x00#8 ∨ 0x0B#8 ≤ op := by
  bv_omega

/-- A first byte in R83's ranges is no opcode of the decoder's and implies no length. -/
theorem decodeCommand_of_unknown {op : Byte} (h : op = 0x00#8 ∨ 0x0B#8 ≤ op) (rest : List Byte) :
    decodeCommand (op :: rest) = .error .unknownOpcode ∧ impliedLength (op :: rest) = none := by
  obtain ⟨h1, h2, h3, h4, h5, h6, h7, h8, h9, hA⟩ : op ≠ 0x01#8 ∧ op ≠ 0x02#8 ∧ op ≠ 0x03#8 ∧ op ≠ 0x04#8 ∧
      op ≠ 0x05#8 ∧ op ≠ 0x06#8 ∧ op ≠ 0x07#8 ∧ op ≠ 0x08#8 ∧ op ≠ 0x09#8 ∧ op ≠ 0x0A#8 := by
    bv_omega
  simp [decodeCommand, impliedLength, h1, h2, h3, h4, h5, h6, h7, h8, h9, hA]

/-- A command string decodes exactly where it has the length its opcode and length field imply (R80, R83, R87). -/
theorem decodeCommand_accepts_iff (op : Byte) (rest : List Byte) :
    (∃ i, decodeCommand (op :: rest) = .ok i) ↔ impliedLength (op :: rest) = some (rest.length + 1) := by
  obtain rfl | rfl | rfl | rfl | rfl | rfl | rfl | rfl | rfl | rfl | hunknown := opcode_cases op
  · exact operandsCU_accepts_iff _ rest
  · exact operandsS_accepts_iff (by decide) _ rest
  · exact operandsS_accepts_iff (by decide) _ rest
  · exact operandsS_accepts_iff (by decide) _ rest
  · exact operandsDCS_accepts_iff (by decide) _ rest
  · exact operandsS_accepts_iff (by decide) _ rest
  · exact operandsDCS_accepts_iff (by decide) _ rest
  · exact operandsA2_accepts_iff _ rest
  · exact operandsN_accepts_iff (by decide) _ rest
  · exact operandsN_accepts_iff (by decide) _ rest
  · obtain ⟨hd, himp⟩ := decodeCommand_of_unknown hunknown rest
    simp [hd, himp]

/-- R83's two classes of illegal strings in one: an opcode in its ranges implies no length. -/
theorem illegalString_iff (op : Byte) (rest : List Byte) :
    IllegalString op rest ↔ impliedLength (op :: rest) ≠ some (rest.length + 1) := by
  constructor
  · rintro (h | h | h)
    · simp [(decodeCommand_of_unknown (.inl h) rest).2]
    · simp [(decodeCommand_of_unknown (.inr h) rest).2]
    · exact h
  · exact fun h => .inr (.inr h)

theorem decode_error_iff_illegalString (op : Byte) (rest : List Byte) :
    (∃ e, decode (.command (op :: rest)) = .error e) ↔ IllegalString op rest := by
  rw [illegalString_iff, ne_eq, ← decodeCommand_accepts_iff, decode]
  cases decodeCommand (op :: rest) <;> simp

/-- Settles O3: an illegal string is one the decoder refuses, and a refused string is answered with [0x0C] (R149). -/
theorem illegalCommandAnswersAndWritesNothing : Obligations.IllegalCommandAnswersAndWritesNothing := by
  intro op rest
  refine ⟨decode_error_iff_illegalString op rest, fun s ag hag hill => ?_⟩
  obtain ⟨_, hd⟩ := (decode_error_iff_illegalString op rest).mpr hill
  exact step_of_illegal hag hd

/-! ### Receive turns that are not enabled -/

/-- Settles O8: with no byte in RXQ, or with no wait armed, the receive agent is not enabled (R117). -/
theorem receiveTurnNotEnabledIsSkipped : Obligations.ReceiveTurnNotEnabledIsSkipped := by
  intro s ag hag h
  refine step_of_receive_skipped hag (Bool.eq_false_iff.mpr fun hen => ?_)
  obtain ⟨hw, b, q, hq⟩ := (receiveEnabled_iff s).mp hen
  obtain hempty | hnot := h
  · cases hempty.symm.trans hq
  · exact hnot hw

end Sys2Proof.Machine
end

section
/-! PROOFS. The wire form of a stuffed frame (R70, R71, R100): its interior byte by byte, its length, and where reserved
values stand in it. -/

namespace Sys2Proof.Machine

open Sys2Proof.Claims (wireBytes)

/-! ### The stuffed form of a sequence (R70, R100) -/

theorem wireBytes_of_reserved {b : Byte} (h : isReserved b = true) : wireBytes b = [escByte, escTransform b] :=
  if_pos h

theorem wireBytes_of_raw {b : Byte} (h : isReserved b = false) : wireBytes b = [b] :=
  if_neg (by simp [h])

/-- Past the first byte, each interior byte has its wire bytes, and the last byte is copied (R100). -/
theorem stuffTail_concat (interior : List Byte) (last : Byte) :
    stuffTail (interior ++ [last]) = (interior.flatMap wireBytes ++ [last], interior.countP isReserved) := by
  induction interior with
  | nil => rfl
  | cons b rest ih =>
    rw [List.cons_append, stuffTail_cons b (by simp), ih]
    cases hb : isReserved b with
    | true => simp [hb, wireBytes_of_reserved]
    | false => simp [hb, wireBytes_of_raw]

/-- The stuffed form of a sequence of two bytes or more: the first and the last byte copied, the interior escaped byte by
byte, and the count of its reserved bytes (R100). -/
theorem stuff_cons_concat (first last : Byte) (interior : List Byte) :
    stuff (first :: interior ++ [last]) =
      (first :: interior.flatMap wireBytes ++ [last], interior.countP isReserved) := by
  rw [List.cons_append, stuff, stuffTail_concat, List.cons_append]

/-- An interior grows by one byte for each of its reserved bytes (R101). -/
theorem length_flatMap_wireBytes (interior : List Byte) :
    (interior.flatMap wireBytes).length = interior.length + interior.countP isReserved := by
  induction interior with
  | nil => rfl
  | cons b rest ih =>
    cases hb : isReserved b with
    | true => simp [hb, wireBytes_of_reserved, ih]; omega
    | false => simp [hb, wireBytes_of_raw, ih]; omega

/-- The wire form is at least as long as the frame, and each byte but the first and the last at most doubles (R72). -/
theorem stuff_length_bounds (first last : Byte) (interior : List Byte) :
    interior.length + 2 ≤ (stuff (first :: interior ++ [last])).1.length ∧
      (stuff (first :: interior ++ [last])).1.length ≤ 2 * interior.length + 2 := by
  have hcount : interior.countP isReserved ≤ interior.length := List.countP_le_length
  rw [stuff_cons_concat]
  simp only [List.length_append, List.length_cons, List.length_nil, length_flatMap_wireBytes]
  omega

/-! ### Where reserved values stand in it (R71) -/

/-- The second bytes of the four escape pairs. -/
def escapedValues : List Byte := [0xC0#8, 0xC1#8, 0xC2#8, 0xC3#8]

/-- A reserved value stands in these wire bytes only as an ESC with the rest of its escape pair after it. -/
def ReservedOnlyInPairs (w : List Byte) : Prop :=
  ∀ (j : Nat) (b : Byte), w[j]? = some b → isReserved b = true →
    b = escByte ∧ ∃ c ∈ escapedValues, w[j + 1]? = some c

theorem escTransform_mem_escapedValues {b : Byte} (h : isReserved b = true) : escTransform b ∈ escapedValues := by
  obtain rfl | rfl | rfl | rfl := (isReserved_iff b).mp h <;> decide

theorem not_isReserved_of_mem_escapedValues : ∀ c ∈ escapedValues, isReserved c = false := by
  decide

theorem ReservedOnlyInPairs.cons_raw {b : Byte} {w : List Byte} (hb : isReserved b = false)
    (hw : ReservedOnlyInPairs w) : ReservedOnlyInPairs (b :: w) := by
  intro j v hv hres
  cases j with
  | zero =>
    cases hv
    rw [hb] at hres
    cases hres
  | succ j => exact hw j v hv hres

theorem ReservedOnlyInPairs.cons_pair {c : Byte} {w : List Byte} (hc : c ∈ escapedValues)
    (hw : ReservedOnlyInPairs w) : ReservedOnlyInPairs (escByte :: c :: w) := by
  intro j v hv hres
  cases j with
  | zero =>
    cases hv
    exact ⟨rfl, c, hc, rfl⟩
  | succ j => exact hw.cons_raw (not_isReserved_of_mem_escapedValues c hc) j v hv hres

/-- The wire bytes of any interior meet it, whatever the interior holds. -/
theorem reservedOnlyInPairs_flatMap_wireBytes (interior : List Byte) :
    ReservedOnlyInPairs (interior.flatMap wireBytes) := by
  induction interior with
  | nil => exact nofun
  | cons b rest ih =>
    rw [List.flatMap_cons]
    cases hb : isReserved b with
    | true =>
      rw [wireBytes_of_reserved hb]
      exact ih.cons_pair (escTransform_mem_escapedValues hb)
    | false =>
      rw [wireBytes_of_raw hb]
      exact ih.cons_raw hb

/-- Settles O22: index i strictly inside the wire form is index i - 1 of the interior's wire bytes, in which reserved
values stand only in escape pairs. -/
theorem wireInteriorHasNoRawReserved : Obligations.WireInteriorHasNoRawReserved := by
  refine ⟨rfl, ?_⟩
  rintro interior W rfl
  rw [stuff_cons_concat]
  refine ⟨rfl, List.getLast?_concat, ?_⟩
  intro i b hi hlt hb hres
  obtain ⟨j, rfl⟩ : ∃ j, i = j + 1 := ⟨i - 1, by omega⟩
  have hj : j < (interior.flatMap wireBytes).length := by
    simp only [List.length_append, List.length_cons, List.length_nil] at hlt
    omega
  have hb' : (interior.flatMap wireBytes)[j]? = some b := by
    simpa [List.getElem?_append_left hj] using hb
  obtain ⟨hesc, c, hc, hnext⟩ := reservedOnlyInPairs_flatMap_wireBytes interior j b hb' hres
  obtain ⟨hj', -⟩ := List.getElem?_eq_some_iff.mp hnext
  refine ⟨hesc, ?_, c, hc, ?_⟩
  · simp only [List.length_append, List.length_cons, List.length_nil]
    omega
  · simpa [List.getElem?_append_left hj'] using hnext

end Sys2Proof.Machine
end

section
/-! PROOFS. The layout of a built frame (R66), and its length and that of its wire form (R72). -/

namespace Sys2Proof.Machine

/-- What `build` gives: a payload that fits, between the header and the CRC over both, and EOF (R66, R127). -/
theorem build_eq_ok_iff {cfg : Config} {dest cmd : Byte} {payload f : List Byte} :
    build cfg dest cmd payload = .ok f ↔
      payload.length ≤ 247 ∧
      f = frameHead cfg dest cmd payload ++ u16Bytes (crc16 cfg (frameHead cfg dest cmd payload)) ++ [eofByte] := by
  constructor
  · intro h
    have hlen := build_ok_length h
    refine ⟨hlen, ?_⟩
    rw [build, if_neg (by simp only [maxTotal, overhead]; omega)] at h
    exact (Except.ok.inj h).symm
  · rintro ⟨hlen, rfl⟩
    exact if_neg (by simp only [maxTotal, overhead]; omega)

theorem frameHead_length (cfg : Config) (dest cmd : Byte) (payload : List Byte) :
    (frameHead cfg dest cmd payload).length = 5 + payload.length := by
  simp [frameHead]
  omega

section

variable {cfg : Config} {dest cmd : Byte} {payload f : List Byte}

theorem build_frame_length (h : build cfg dest cmd payload = .ok f) : f.length = payload.length + 8 := by
  obtain ⟨-, rfl⟩ := build_eq_ok_iff.mp h
  simp only [List.length_append, frameHead_length, u16Bytes_length, List.length_cons, List.length_nil]
  omega

/-- The bytes before the CRC are those the CRC is over (R66, R69). -/
theorem build_frame_take (h : build cfg dest cmd payload = .ok f) :
    f.take (5 + payload.length) = frameHead cfg dest cmd payload := by
  obtain ⟨-, rfl⟩ := build_eq_ok_iff.mp h
  rw [List.append_assoc, List.take_left' (frameHead_length cfg dest cmd payload)]

theorem build_frame_payload (h : build cfg dest cmd payload = .ok f) {i : Nat} (hi : i < payload.length) :
    f[5 + i]? = payload[i]? := by
  obtain ⟨-, rfl⟩ := build_eq_ok_iff.mp h
  rw [List.append_assoc, List.getElem?_append_left (by rw [frameHead_length]; omega), Nat.add_comm]
  rfl

/-- The three bytes after the payload: the CRC, high byte first, and EOF (R66). -/
theorem build_frame_end (h : build cfg dest cmd payload = .ok f) (k : Nat) :
    f[5 + payload.length + k]? =
      [hi (crc16 cfg (frameHead cfg dest cmd payload)), lo (crc16 cfg (frameHead cfg dest cmd payload)),
        eofByte][k]? := by
  obtain ⟨-, rfl⟩ := build_eq_ok_iff.mp h
  rw [List.append_assoc, List.getElem?_append_right (by rw [frameHead_length]; omega), frameHead_length,
    Nat.add_sub_cancel_left]
  rfl

/-- A frame begins with SOF and ends with EOF, which stuffing leaves as they are. -/
theorem build_frame_markers (h : build cfg dest cmd payload = .ok f) :
    ∃ interior, f = sofByte :: interior ++ [eofByte] := by
  obtain ⟨-, rfl⟩ := build_eq_ok_iff.mp h
  exact ⟨_, rfl⟩

end

/-- Settles O27: the header's five bytes stand at the front of the form of `build_eq_ok_iff`, and the payload, the CRC
over the bytes before it and EOF follow. -/
theorem builtFrameLayout : Obligations.BuiltFrameLayout := by
  intro cfg dest cmd P F hF
  obtain ⟨hP, hform⟩ := build_eq_ok_iff.mp hF
  have hlen := build_frame_length hF
  have hfield : F[2]?.map BitVec.toNat = some F.length := by
    have hvalue : (BitVec.ofNat 8 (P.length + 8)).toNat = F.length := by
      rw [hlen, BitVec.toNat_ofNat]
      omega
    rw [← hvalue, hform]
    rfl
  have hlo := build_frame_end hF 1
  have heof := build_frame_end hF 2
  rw [Nat.add_right_comm] at hlo heof
  rw [build_frame_take hF]
  refine ⟨hlen, by omega, ?_, ?_, hfield, ?_, ?_, fun _ => build_frame_payload hF, build_frame_end hF 0, hlo, heof⟩
  all_goals
    rw [hform]
    rfl

/-- A TRANSMIT of a frame that is built appends its wire form and an ACK to TXLOG (R72, R140). -/
theorem exec_transmit_txlog {dest cmd : Byte} {payload f : List Byte} (h : build config dest cmd payload = .ok f)
    (s : State) :
    ∃ t, exec (.transmit dest cmd payload) s = .next t ∧ t.txlog = s.txlog ++ ((stuff f).1 ++ [ackByte]) := by
  refine ⟨transmitFrame config dest cmd payload s, rfl, ?_⟩
  obtain ⟨st, herr, -⟩ | ⟨f', hok, ht⟩ := transmitFrame_cases config dest cmd payload s
  · cases h.symm.trans herr
  · cases h.symm.trans hok
    rw [ht]
    rfl

/-- Settles O34: of a frame's bytes only those between its markers can double, and they are at most 253. -/
theorem wireLengthBounds : Obligations.WireLengthBounds := by
  rintro dest cmd P F W hF rfl
  have hP := build_ok_length hF
  have hlen := build_frame_length hF
  have hbounds : F.length ≤ (stuff F).1.length ∧ (stuff F).1.length ≤ 2 * F.length - 2 := by
    obtain ⟨interior, rfl⟩ := build_frame_markers hF
    obtain ⟨hlower, hupper⟩ := stuff_length_bounds sofByte eofByte interior
    simp only [List.length_append, List.length_cons, List.length_nil] at hlower hupper ⊢
    omega
  refine ⟨by omega, by omega, hbounds.1, hbounds.2, by omega, fun s => ?_⟩
  obtain ⟨t, ht, htx⟩ := exec_transmit_txlog hF s
  exact ⟨t, ht, by rw [htx]; simp⟩

end Sys2Proof.Machine
end

section
/-! PROOFS. The CRC-16 unit (R89 to R98). Both forms of the shift register are linear over XOR (R91), and with the
polynomials of R10 a shift loses nothing (R94). -/

namespace Sys2Proof.Machine

/-! ### The two halves of the register -/

theorem zext16_injective : Function.Injective zext16 := fun _ _ h => by
  simpa [zext16] using congrArg (BitVec.setWidth 8) h

theorem high_byte_shift (b : Byte) : (zext16 b <<< 8) >>> 8 = zext16 b := by
  apply BitVec.eq_of_toNat_eq
  simp [zext16, Nat.shiftLeft_eq, Nat.shiftRight_eq_div_pow]
  omega

/-- A register value is its high byte and its low byte, each entered as R89 enters a byte. -/
theorem halves_xor (c : Word16) : (zext16 (hi c) <<< 8) ^^^ zext16 (lo c) = c := by
  refine Eq.trans ?_ (be16_hi_lo c)
  ext i h
  rcases Nat.lt_or_ge i 8 with hlow | hhigh
  · simp [be16, hlow]
  · simp [be16, zext16, hhigh]

theorem hi_xor_zext16 (c : Word16) (b : Byte) : hi (c ^^^ zext16 b) = hi c := by
  ext i h
  simp [hi, zext16]

theorem lo_xor_high_byte (c : Word16) (b : Byte) : lo (c ^^^ (zext16 b <<< 8)) = lo c := by
  ext i h
  simp [lo, zext16, h]

theorem zext16_hi (c : Word16) : zext16 (hi c) = c >>> 8 := by
  apply BitVec.eq_of_toNat_eq
  simp [hi, zext16, Nat.shiftRight_eq_div_pow]
  omega

theorem zext16_lo_shift (c : Word16) : zext16 (lo c) <<< 8 = c <<< 8 := by
  apply BitVec.eq_of_toNat_eq
  simp [lo, zext16, Nat.shiftLeft_eq]
  omega

/-- The table's index in the Normal form is the high byte of the register the byte has entered (R91). -/
theorem hi_xor_high_byte (c : Word16) (b : Byte) : hi (c ^^^ (zext16 b <<< 8)) = lo ((c >>> 8) ^^^ zext16 b) := by
  ext i h
  simp [hi, lo, zext16, h, show 8 + i < 16 by omega, show i < 16 by omega]

/-! ### One shift and n shifts (R89) -/

section

variable {cfg : Config}

theorem crcShift_reflected (hform : cfg.crcForm = .reflected) (c : Word16) :
    crcShift cfg c = if c.getLsbD 0 then (c >>> 1) ^^^ cfg.crcPoly else c >>> 1 := by
  simp only [crcShift, hform]

theorem crcShift_normal (hform : cfg.crcForm = .normal) (c : Word16) :
    crcShift cfg c = if c.getLsbD 15 then (c <<< 1) ^^^ cfg.crcPoly else c <<< 1 := by
  simp only [crcShift, hform]

theorem crcEnter_reflected (hform : cfg.crcForm = .reflected) (b : Byte) : crcEnter cfg b = zext16 b := by
  simp only [crcEnter, hform]

theorem crcEnter_normal (hform : cfg.crcForm = .normal) (b : Byte) : crcEnter cfg b = zext16 b <<< 8 := by
  simp only [crcEnter, hform]

theorem crcEnter_injective (cfg : Config) : Function.Injective (crcEnter cfg) := fun x y h => by
  cases hform : cfg.crcForm with
  | reflected =>
    rw [crcEnter_reflected hform, crcEnter_reflected hform] at h
    exact zext16_injective h
  | normal =>
    rw [crcEnter_normal hform, crcEnter_normal hform] at h
    exact zext16_injective (by rw [← high_byte_shift x, h, high_byte_shift])

theorem crcShifts_eq_iterate (cfg : Config) (n : Nat) (c : Word16) : crcShifts cfg n c = (crcShift cfg)^[n] c := by
  induction n generalizing c with
  | zero => rfl
  | succ n ih => exact ih (crcShift cfg c)

end

/-! ### Linearity over XOR (R91) -/

/-- A register that feeds the polynomial back on a bit of the sum feeds back the sum of what the two bits feed back. -/
theorem feedback_xor (p x y : Word16) (a b : Bool) :
    (if a ^^ b then (x ^^^ y) ^^^ p else x ^^^ y) = (if a then x ^^^ p else x) ^^^ (if b then y ^^^ p else y) := by
  have hswap : (x ^^^ p) ^^^ y = (x ^^^ y) ^^^ p := by ac_rfl
  have hcancel : (x ^^^ p) ^^^ (y ^^^ p) = x ^^^ y := by
    rw [← BitVec.xor_assoc, hswap, BitVec.xor_assoc, BitVec.xor_self, BitVec.xor_zero]
  match a, b with
  | false, false => rfl
  | false, true => exact BitVec.xor_assoc x y p
  | true, false => exact hswap.symm
  | true, true => exact hcancel.symm

theorem crcShift_xor (cfg : Config) (x y : Word16) : crcShift cfg (x ^^^ y) = crcShift cfg x ^^^ crcShift cfg y := by
  cases hform : cfg.crcForm with
  | reflected =>
    simp only [crcShift_reflected hform, BitVec.getLsbD_xor, BitVec.ushiftRight_xor_distrib, feedback_xor]
  | normal =>
    simp only [crcShift_normal hform, BitVec.getLsbD_xor, BitVec.shiftLeft_xor_distrib, feedback_xor]

theorem crcShifts_xor (cfg : Config) (n : Nat) (x y : Word16) :
    crcShifts cfg n (x ^^^ y) = crcShifts cfg n x ^^^ crcShifts cfg n y := by
  induction n generalizing x y with
  | zero => rfl
  | succ n ih => simp only [crcShifts, crcShift_xor, ih]

/-! ### The half of the register that no feedback reaches -/

/-- n right shifts of a value whose low n bits are clear feed nothing back. -/
theorem crcShifts_of_low_clear {cfg : Config} (hform : cfg.crcForm = .reflected) {n : Nat} {c : Word16}
    (hc : ∀ i < n, c.getLsbD i = false) : crcShifts cfg n c = c >>> n := by
  induction n generalizing c with
  | zero => exact (BitVec.ushiftRight_zero c).symm
  | succ n ih =>
    have hshift : crcShift cfg c = c >>> 1 := by
      rw [crcShift_reflected hform, hc 0 n.succ_pos]
      rfl
    have hclear : ∀ i < n, (c >>> 1).getLsbD i = false := fun i hbound => by
      rw [BitVec.getLsbD_ushiftRight]
      exact hc (1 + i) (by omega)
    rw [crcShifts, hshift, ih hclear, ← BitVec.shiftRight_add, Nat.add_comm]

/-- n left shifts of a value whose high n bits are clear feed nothing back. -/
theorem crcShifts_of_high_clear {cfg : Config} (hform : cfg.crcForm = .normal) {n : Nat} {c : Word16}
    (hc : ∀ i < n, c.getMsbD i = false) : crcShifts cfg n c = c <<< n := by
  induction n generalizing c with
  | zero => exact (BitVec.shiftLeft_zero c).symm
  | succ n ih =>
    have hshift : crcShift cfg c = c <<< 1 := by
      have hmsb : c.getLsbD 15 = false := hc 0 n.succ_pos
      rw [crcShift_normal hform, hmsb]
      rfl
    have hclear : ∀ i < n, (c <<< 1).getMsbD i = false := fun i hbound => by
      rw [BitVec.getMsbD_shiftLeft]
      exact hc (i + 1) (by omega)
    rw [crcShifts, hshift, ih hclear, ← BitVec.shiftLeft_add, Nat.add_comm]

/-- Reflected: a byte in the high half comes out in the low half as it is. -/
theorem crcShifts_high_byte {cfg : Config} (hform : cfg.crcForm = .reflected) (b : Byte) :
    crcShifts cfg 8 (zext16 b <<< 8) = zext16 b := by
  have hclear : ∀ i < 8, (zext16 b <<< 8).getLsbD i = false := fun i hbound => by simp [hbound]
  rw [crcShifts_of_low_clear hform hclear, high_byte_shift]

/-- Normal: a byte in the low half comes out in the high half as it is. -/
theorem crcShifts_low_byte {cfg : Config} (hform : cfg.crcForm = .normal) (b : Byte) :
    crcShifts cfg 8 (zext16 b) = zext16 b <<< 8 := by
  refine crcShifts_of_high_clear hform fun i hbound => ?_
  have hhigh : 8 ≤ 15 - i := by omega
  simp [zext16, BitVec.getMsbD, hhigh]

/-! ### The table-driven update (R90, R91) -/

theorem crcTableUpdate_reflected {cfg : Config} (hform : cfg.crcForm = .reflected) (c : Word16) (b : Byte) :
    crcTableUpdate cfg c b = (c >>> 8) ^^^ crcTable cfg (lo (c ^^^ zext16 b)) := by
  simp only [crcTableUpdate, hform]

theorem crcTableUpdate_normal {cfg : Config} (hform : cfg.crcForm = .normal) (c : Word16) (b : Byte) :
    crcTableUpdate cfg c b = (c <<< 8) ^^^ crcTable cfg (lo ((c >>> 8) ^^^ zext16 b)) := by
  simp only [crcTableUpdate, hform]

theorem crcTable_eq (cfg : Config) (i : Byte) : crcTable cfg i = crcShifts cfg 8 (crcEnter cfg i) := by
  rw [crcTable, crcUpdate, BitVec.zero_xor]

/-- The register is its two halves, and by linearity each is shifted alone: one comes out as it is, and the other is what
the table holds. -/
theorem crcTableUpdate_eq_crcUpdate (cfg : Config) (c : Word16) (b : Byte) :
    crcTableUpdate cfg c b = crcUpdate cfg c b := by
  symm
  cases hform : cfg.crcForm with
  | reflected =>
    calc crcUpdate cfg c b
        = crcShifts cfg 8 ((zext16 (hi c) <<< 8) ^^^ zext16 (lo (c ^^^ zext16 b))) := by
          rw [crcUpdate, crcEnter_reflected hform, ← hi_xor_zext16 c b, halves_xor]
      _ = (c >>> 8) ^^^ crcShifts cfg 8 (zext16 (lo (c ^^^ zext16 b))) := by
          rw [crcShifts_xor, crcShifts_high_byte hform, zext16_hi]
      _ = crcTableUpdate cfg c b := by
          rw [crcTableUpdate_reflected hform, crcTable_eq, crcEnter_reflected hform]
  | normal =>
    calc crcUpdate cfg c b
        = crcShifts cfg 8 ((zext16 (lo ((c >>> 8) ^^^ zext16 b)) <<< 8) ^^^ zext16 (lo c)) := by
          rw [crcUpdate, crcEnter_normal hform, ← hi_xor_high_byte, ← lo_xor_high_byte c b, halves_xor]
      _ = (c <<< 8) ^^^ crcShifts cfg 8 (zext16 (lo ((c >>> 8) ^^^ zext16 b)) <<< 8) := by
          rw [crcShifts_xor, crcShifts_low_byte hform, zext16_lo_shift c, BitVec.xor_comm]
      _ = crcTableUpdate cfg c b := by
          rw [crcTableUpdate_normal hform, crcTable_eq, crcEnter_normal hform]

/-- Settles O13: the two forms are those of the definition, and the equality is `crcTableUpdate_eq_crcUpdate`. -/
theorem tableDrivenUpdateAgrees : Obligations.TableDrivenUpdateAgrees := fun cfg c b =>
  ⟨fun hform => crcTableUpdate_reflected hform c b, fun hform => crcTableUpdate_normal hform c b,
    crcTableUpdate_eq_crcUpdate cfg c b⟩

/-! ### No two register values merge (R94) -/

section

variable {cfg : Config} (hpoly : cfg.crcPoly = specPoly cfg.crcForm)
include hpoly

/-- A shift to the right leaves bit 15 clear, and bit 15 of the Reflected polynomial is set: what a shift with feedback
gives is not zero. Bit 0 is that bit of the Normal form. -/
theorem eq_zero_of_crcShift_eq_zero {c : Word16} (h : crcShift cfg c = 0#16) : c = 0#16 := by
  cases hform : cfg.crcForm with
  | reflected =>
    rw [crcShift_reflected hform, hpoly, hform] at h
    split at h
    case isTrue =>
      have hbit := congrArg (BitVec.getLsbD · 15) h
      simp [specPoly] at hbit
    case isFalse hout =>
      refine BitVec.eq_of_getLsbD_eq fun i _ => ?_
      cases i with
      | zero => simpa using hout
      | succ i => simpa [Nat.add_comm] using congrArg (BitVec.getLsbD · i) h
  | normal =>
    rw [crcShift_normal hform, hpoly, hform] at h
    split at h
    case isTrue =>
      have hbit := congrArg (BitVec.getLsbD · 0) h
      simp [specPoly] at hbit
    case isFalse hout =>
      refine BitVec.eq_of_getLsbD_eq fun i hbound => ?_
      rcases Nat.lt_or_ge i 15 with hlt | hge
      · simpa [BitVec.getLsbD_eq_getElem hbound, show i + 1 < 16 by omega] using
          congrArg (BitVec.getLsbD · (i + 1)) h
      · obtain rfl : i = 15 := by omega
        simpa using hout

theorem crcShift_injective : Function.Injective (crcShift cfg) := fun x y h => by
  refine BitVec.xor_eq_zero_iff.mp (eq_zero_of_crcShift_eq_zero hpoly ?_)
  rw [crcShift_xor, h, BitVec.xor_self]

theorem crcShifts_injective (n : Nat) : Function.Injective (crcShifts cfg n) := by
  rw [funext (crcShifts_eq_iterate cfg n)]
  exact (crcShift_injective hpoly).iterate n

theorem crcUpdate_injective (b : Byte) : Function.Injective fun c => crcUpdate cfg c b := fun _ _ h =>
  (BitVec.xor_left_inj _).mp (crcShifts_injective hpoly 8 h)

theorem crcUpdate_byte_injective (c : Word16) : Function.Injective (crcUpdate cfg c) := fun _ _ h =>
  crcEnter_injective cfg ((BitVec.xor_right_inj _).mp (crcShifts_injective hpoly 8 h))

theorem foldl_crcUpdate_injective (s : List Byte) : Function.Injective fun c => s.foldl (crcUpdate cfg) c := by
  induction s with
  | nil => exact fun _ _ h => h
  | cons b s ih => exact fun _ _ h => crcUpdate_injective hpoly b (ih h)

/-- Up to the changed byte the registers agree, there they part, and no later byte merges them. -/
theorem foldl_crcUpdate_set_ne {s : List Byte} {i : Nat} {b b' : Byte} (hb : s[i]? = some b) (hne : b' ≠ b)
    (c : Word16) : (s.set i b').foldl (crcUpdate cfg) c ≠ s.foldl (crcUpdate cfg) c := by
  induction s generalizing i c with
  | nil => cases hb
  | cons x s ih =>
    cases i with
    | zero =>
      cases hb
      exact fun h => hne (crcUpdate_byte_injective hpoly c (foldl_crcUpdate_injective hpoly s h))
    | succ i => exact ih hb (crcUpdate cfg c x)

end

/-- Settles O17: no shift merges two values, so the update is injective, and on a finite type that is bijective. -/
theorem crcUpdateIsBijection : Obligations.CrcUpdateIsBijection := fun _ b hpoly =>
  Finite.injective_iff_bijective.mp (crcUpdate_injective hpoly b)

/-- Settles O18: the changed byte leaves another register value, and the bytes after it keep the two apart. -/
theorem singleByteErrorChangesCrc : Obligations.SingleByteErrorChangesCrc := by
  intro cfg s i b e hpoly hb he
  have hne : b ^^^ e ≠ b := fun h => he ((BitVec.xor_right_inj _).mp (h.trans BitVec.xor_zero.symm))
  exact foldl_crcUpdate_set_ne hpoly hb hne crcSeed

/-! ### The bit-level definition and the two commands (R89, R95 to R97) -/

/-- Settles O12: the eight shifts are an iterate of one. -/
theorem crcUpdateBitLevel : Obligations.CrcUpdateBitLevel := by
  intro cfg c b
  refine ⟨fun hform => ?_, fun hform => ?_⟩
  · rw [crcUpdate, crcShifts_eq_iterate, crcEnter_reflected hform, funext (crcShift_reflected hform)]
    rfl
  · rw [crcUpdate, crcShifts_eq_iterate, crcEnter_normal hform, funext (crcShift_normal hform)]
    rfl

theorem exec_crcUpdate (c : Word16) (b : Byte) (s : State) :
    exec (.crcUpdate c b) s = .next (respond (crcResponse (crcUpdate config c b)) s) := rfl

theorem exec_crcCompute (data : List Byte) (s : State) :
    exec (.crcCompute data) s = .next (respond (crcResponse (crc16 config data)) s) := rfl

theorem respond_crcResponse (c : Word16) (s : State) :
    respond (crcResponse c) s = Claims.answered s [0x00#8, hi c, lo c] := rfl

/-- The CRC a response carries is the one that was answered. -/
theorem answeredCrc_respond (c : Word16) (s : State) :
    Claims.answeredCrc (.next (respond (crcResponse c) s)) = c := by
  simp [Claims.answeredCrc, Response.bytes, crcResponse, u16Bytes]

/-- Settles O14: the response is that of `respond_crcResponse`, which writes no other field. -/
theorem crcUpdateResult : Obligations.CrcUpdateResult := fun c b s =>
  ⟨rfl, by rw [exec_crcUpdate, respond_crcResponse]⟩

/-- Settles O15: the same response, with the fold from the seed. -/
theorem crcComputeResult : Obligations.CrcComputeResult := fun data s =>
  ⟨rfl, by rw [exec_crcCompute, respond_crcResponse]; rfl⟩

/-- Settles O16: each response carries its CRC, so both sides are the fold of R92. -/
theorem incrementalAndBlockCrcAgree : Obligations.IncrementalAndBlockCrcAgree := by
  intro data s
  simp only [exec_crcUpdate, exec_crcCompute, answeredCrc_respond]
  rfl

end Sys2Proof.Machine
end

section
/-! PROOFS. The stuffer's and the destuffer's results (R100 to R107): the inserted count, the two responses, and what
destuffing gives by the units of an escaped interior. -/

namespace Sys2Proof.Machine

open Sys2Proof.Claims (wireBytes unitBytes UnitsLegal)

/-! ### The stuffed form of every sequence (R101, R104, R107) -/

/-- Settles O20: only the interior grows, by one byte for each reserved byte in it. -/
theorem insertedCountAndWireLength : Obligations.InsertedCountAndWireLength := by
  intro U
  cases U using List.bidirectionalRec with
  | nil => exact ⟨rfl, nofun, fun _ => ⟨rfl, rfl⟩⟩
  | singleton b => exact ⟨rfl, fun h => absurd h (by simp), fun _ => ⟨rfl, rfl⟩⟩
  | cons_append first interior last =>
    rw [← List.cons_append, stuff_cons_concat]
    refine ⟨by simp, fun _ => ?_, fun h => absurd h (by simp)⟩
    simp only [List.length_append, List.length_cons, length_flatMap_wireBytes]
    omega

/-- Settles O21: both ends stand in the form of `stuff_cons_concat`. -/
theorem stuffKeepsFirstAndLast : Obligations.StuffKeepsFirstAndLast := by
  intro U
  cases U using List.bidirectionalRec with
  | nil => exact ⟨nofun, nofun⟩
  | singleton b => exact ⟨fun _ => rfl, fun _ => rfl⟩
  | cons_append first interior last =>
    rw [← List.cons_append, stuff_cons_concat, List.getLast?_concat, List.getLast?_concat]
    exact ⟨fun _ => rfl, fun _ => rfl⟩

theorem exec_stuff (data : List Byte) (s : State) :
    exec (.stuff data) s = .next (Claims.answered s
      (0x00#8 :: len16 (stuff data).2 ++ len32 (stuff data).1.length ++ (stuff data).1)) := rfl

/-- Settles O19: the response carries what `stuff` gives, which is that of `stuff_cons_concat` from two bytes on. -/
theorem stuffResult : Obligations.StuffResult := by
  refine fun s => ⟨fun _ => rfl, exec_stuff [] s, fun b => exec_stuff [b] s, ?_⟩
  rintro first last interior W rfl
  rw [exec_stuff, stuff_cons_concat]

/-! ### DESTUFF's response (R105) -/

theorem exec_destuff (data : List Byte) (s : State) :
    exec (.destuff data) s = .next (respond (destuffResponse (destuff data)) s) := rfl

/-- Settles O23: the response is `destuffResponse` of what destuffing gives. -/
theorem destuffResult : Obligations.DestuffResult := by
  refine fun data s => ⟨rfl, fun U h => ?_, fun j h => ?_, fun j h => ?_⟩
  all_goals
    rw [exec_destuff, h]
    rfl

/-! ### Destuffing a run of legal units (R102) -/

/-- The destuffer puts a byte before what the rest gives, and passes an error on. -/
theorem match_ok_cons_eq_map (v : Byte) (r : Except DestuffError (List Byte)) :
    (match r with
      | .ok u => .ok (v :: u)
      | .error e => .error e) = r.map (v :: ·) := by
  cases r <;> rfl

theorem destuff_cons (first : Byte) (rest : List Byte) :
    destuff (first :: rest) = (destuffTail 1 rest).map (first :: ·) :=
  match_ok_cons_eq_map first (destuffTail 1 rest)

/-- What `UnitsLegal` asks of each unit. -/
def UnitLegal (u : Byte × Bool) : Prop :=
  (u.2 = true → isReserved u.1 = true) ∧ (u.2 = false → u.1 ≠ escByte)

theorem unitsLegal_cons {u : Byte × Bool} {us : List (Byte × Bool)} :
    UnitsLegal (u :: us) ↔ UnitLegal u ∧ UnitsLegal us :=
  List.forall_mem_cons

/-- A legal unit with bytes after it is its value, and what follows is read from the index after it. -/
theorem destuffTail_unit (i : Nat) {u : Byte × Bool} {rest : List Byte} (hu : UnitLegal u) (h : rest ≠ []) :
    destuffTail i (unitBytes u ++ rest) = (destuffTail (i + (unitBytes u).length) rest).map (u.1 :: ·) := by
  obtain ⟨v, escaped⟩ := u
  obtain ⟨hpair, hraw⟩ := hu
  cases escaped with
  | true =>
    have hres : isReserved (escTransform (escTransform v)) = true := by
      rw [escTransform_escTransform]
      exact hpair rfl
    have hstep := destuffTail_pair i hres h
    rw [escTransform_escTransform] at hstep
    exact hstep.trans (match_ok_cons_eq_map v (destuffTail (i + 2) rest))
  | false => exact (destuffTail_raw i (hraw rfl) h).trans (match_ok_cons_eq_map v (destuffTail (i + 1) rest))

theorem destuffTail_units (i : Nat) {us : List (Byte × Bool)} {rest : List Byte} (hus : UnitsLegal us)
    (h : rest ≠ []) :
    destuffTail i (us.flatMap unitBytes ++ rest) =
      (destuffTail (i + (us.flatMap unitBytes).length) rest).map (us.map (·.1) ++ ·) := by
  induction us generalizing i with
  | nil => exact (congrFun Except.map_id (destuffTail i rest)).symm
  | cons u us ih =>
    obtain ⟨hu, hus⟩ := unitsLegal_cons.mp hus
    rw [List.flatMap_cons, List.append_assoc, destuffTail_unit i hu (by simp [h]), ih _ hus, List.length_append,
      Nat.add_assoc]
    cases destuffTail (i + ((unitBytes u).length + (us.flatMap unitBytes).length)) rest <;> rfl

/-- A run of legal units past the first byte gives the units' values, and the rest decides at its own index. -/
theorem destuff_units (first : Byte) {us : List (Byte × Bool)} {rest : List Byte} (hus : UnitsLegal us)
    (h : rest ≠ []) :
    destuff (first :: us.flatMap unitBytes ++ rest) =
      (destuffTail (1 + (us.flatMap unitBytes).length) rest).map (first :: us.map (·.1) ++ ·) := by
  rw [List.cons_append, destuff_cons, destuffTail_units 1 hus h]
  cases destuffTail (1 + (us.flatMap unitBytes).length) rest <;> rfl

/-! ### The four ends after the units (R102, R103) -/

theorem destuffTail_last (i : Nat) {last : Byte} (h : last ≠ escByte) : destuffTail i [last] = .ok [last] :=
  if_neg h

theorem destuffTail_esc_last (i : Nat) : destuffTail i [escByte] = .error (.truncated i) := rfl

theorem destuffTail_esc_before_last (i : Nat) (last : Byte) :
    destuffTail i [escByte, last] = .error (.truncated i) := rfl

theorem destuffTail_bad_pair (i : Nat) {c : Byte} (d : Byte) (rest : List Byte)
    (hc : isReserved (escTransform c) = false) :
    destuffTail i (escByte :: c :: d :: rest) = .error (.unrecognized i) :=
  (if_pos rfl).trans (if_neg (by simp [hc]))

/-- The four ends: a last byte, an ESC as the last byte or just before it, and an ESC whose pair is no reserved value. -/
def IsEnd (w : List Byte) : Prop :=
  (∃ last : Byte, last ≠ escByte ∧ w = [last]) ∨ w = [escByte] ∨ (∃ last : Byte, w = [escByte, last]) ∨
    ∃ (c d : Byte) (rest : List Byte), isReserved (escTransform c) = false ∧ w = escByte :: c :: d :: rest

/-- The bytes are a run of legal units and one of the four ends. -/
def IsUnitsThenEnd (w : List Byte) : Prop :=
  ∃ (us : List (Byte × Bool)) (tail : List Byte), UnitsLegal us ∧ IsEnd tail ∧ w = us.flatMap unitBytes ++ tail

theorem IsEnd.isUnitsThenEnd {w : List Byte} (h : IsEnd w) : IsUnitsThenEnd w :=
  ⟨[], w, nofun, h, rfl⟩

theorem IsUnitsThenEnd.cons {u : Byte × Bool} {w : List Byte} (hu : UnitLegal u) (hw : IsUnitsThenEnd w) :
    IsUnitsThenEnd (unitBytes u ++ w) := by
  obtain ⟨us, tail, hus, hend, rfl⟩ := hw
  exact ⟨u :: us, tail, unitsLegal_cons.mpr ⟨hu, hus⟩, hend, by rw [List.flatMap_cons, List.append_assoc]⟩

theorem IsUnitsThenEnd.cons_raw {b : Byte} {w : List Byte} (hb : b ≠ escByte) (hw : IsUnitsThenEnd w) :
    IsUnitsThenEnd (b :: w) :=
  hw.cons (u := (b, false)) ⟨nofun, fun _ => hb⟩

theorem IsUnitsThenEnd.cons_pair {c : Byte} {w : List Byte} (hc : isReserved (escTransform c) = true)
    (hw : IsUnitsThenEnd w) : IsUnitsThenEnd (escByte :: c :: w) := by
  have h := hw.cons (u := (escTransform c, true)) ⟨fun _ => hc, nofun⟩
  rwa [show unitBytes (escTransform c, true) = [escByte, escTransform (escTransform c)] from rfl,
    escTransform_escTransform] at h

/-- The destuffer's own case analysis: the bytes past the first are units and an end. -/
theorem isUnitsThenEnd_of_ne_nil : ∀ {w : List Byte}, w ≠ [] → IsUnitsThenEnd w
  | [], h => absurd rfl h
  | [b], _ => by
    rcases eq_or_ne b escByte with rfl | hb
    · exact IsEnd.isUnitsThenEnd (.inr (.inl rfl))
    · exact IsEnd.isUnitsThenEnd (.inl ⟨b, hb, rfl⟩)
  | [b, c], _ => by
    rcases eq_or_ne b escByte with rfl | hb
    · exact IsEnd.isUnitsThenEnd (.inr (.inr (.inl ⟨c, rfl⟩)))
    · exact (isUnitsThenEnd_of_ne_nil (List.cons_ne_nil c [])).cons_raw hb
  | b :: c :: d :: rest, _ => by
    rcases eq_or_ne b escByte with rfl | hb
    · cases hc : isReserved (escTransform c) with
      | true => exact (isUnitsThenEnd_of_ne_nil (List.cons_ne_nil d rest)).cons_pair hc
      | false => exact IsEnd.isUnitsThenEnd (.inr (.inr (.inr ⟨c, d, rest, hc, rfl⟩)))
    · exact (isUnitsThenEnd_of_ne_nil (List.cons_ne_nil c (d :: rest))).cons_raw hb

/-- Settles O24: after the units of `destuff_units` each end gives its own result, and by `isUnitsThenEnd_of_ne_nil` there
is always one of them. -/
theorem destuffByEscapeUnits : Obligations.DestuffByEscapeUnits := by
  refine ⟨rfl, fun _ => rfl, fun first us hus => ⟨fun last hlast => ?_, ?_, fun last => ?_, fun c d rest hc => ?_⟩, ?_⟩
  · rw [destuff_units first hus (by simp)]
    exact congrArg (Except.map _) (destuffTail_last _ hlast)
  · rw [destuff_units first hus (by simp)]
    exact congrArg (Except.map _) (destuffTail_esc_last _)
  · rw [destuff_units first hus (by simp)]
    exact congrArg (Except.map _) (destuffTail_esc_before_last _ last)
  · rw [destuff_units first hus (by simp)]
    exact congrArg (Except.map _) (destuffTail_bad_pair _ d rest hc)
  · intro W hW
    match W, hW with
    | first :: b :: rest, _ =>
      obtain ⟨us, tail, hus, hend, hrest⟩ := isUnitsThenEnd_of_ne_nil (List.cons_ne_nil b rest)
      rw [hrest]
      refine ⟨first, us, hus, ?_⟩
      obtain ⟨last, hlast, rfl⟩ | rfl | ⟨last, rfl⟩ | ⟨c, d, after, hc, rfl⟩ := hend
      · exact .inl ⟨last, hlast, rfl⟩
      · exact .inr (.inl rfl)
      · exact .inr (.inr (.inl ⟨last, rfl⟩))
      · exact .inr (.inr (.inr ⟨c, d, after, hc, rfl⟩))

/-! ### Destuffing a stuffed sequence (R106) -/

/-- The unit the stuffer writes for an interior byte. -/
def stuffedUnit (b : Byte) : Byte × Bool := (b, isReserved b)

theorem flatMap_unitBytes_stuffedUnit (interior : List Byte) :
    (interior.map stuffedUnit).flatMap unitBytes = interior.flatMap wireBytes :=
  List.flatMap_map ..

theorem map_fst_stuffedUnit (interior : List Byte) : (interior.map stuffedUnit).map (·.1) = interior := by
  rw [List.map_map]
  exact List.map_id interior

theorem unitsLegal_stuffedUnit (interior : List Byte) : UnitsLegal (interior.map stuffedUnit) := by
  refine List.forall_mem_map.mpr fun b _ => ⟨id, ?_⟩
  rintro (hraw : isReserved b = false) rfl
  cases hraw

/-- The interior comes back from a stuffed sequence whatever it holds, and the last byte decides. -/
theorem destuff_stuff_cons_concat (first last : Byte) (interior : List Byte) :
    destuff (stuff (first :: interior ++ [last])).1 =
      (destuffTail (1 + (interior.flatMap wireBytes).length) [last]).map (first :: interior ++ ·) := by
  rw [stuff_cons_concat]
  have h := destuff_units first (unitsLegal_stuffedUnit interior) (List.cons_ne_nil last [])
  rwa [flatMap_unitBytes_stuffedUnit, map_fst_stuffedUnit] at h

/-- Settles O25: from two bytes on the last byte decides, by `destuff_stuff_cons_concat`. -/
theorem destuffInvertsStuff : Obligations.DestuffInvertsStuff := by
  intro U
  cases U using List.bidirectionalRec with
  | nil => exact ⟨fun _ => rfl, nofun⟩
  | singleton b => exact ⟨fun _ => rfl, fun h => absurd h (by simp)⟩
  | cons_append first interior last =>
    rw [← List.cons_append, destuff_stuff_cons_concat, List.getLast?_concat]
    refine ⟨fun h => ?_, fun _ h => ?_⟩
    · have hlast : last ≠ escByte := fun he => h (by simp) (congrArg some he)
      rw [destuffTail_last _ hlast]
      rfl
    · obtain rfl : last = escByte := Option.some.inj h
      have hindex : 1 + (interior.flatMap wireBytes).length =
          (stuff (first :: interior ++ [escByte])).1.length - 1 := by
        rw [stuff_cons_concat]
        simp only [List.length_append, List.length_cons, List.length_nil]
        omega
      rw [destuffTail_esc_last, hindex]
      rfl

end Sys2Proof.Machine
end

section
/-! PROOFS. What each receive row writes (R112 to R117), and the one step in which RX_EOF delivers a body and completes
its frame (R113, R133, R145, R146). -/

namespace Sys2Proof.Machine

/-- Settles O7: a received byte always decodes, to the row of its class, and `step_of_receive_taken` runs that row. -/
theorem stepRunsReceivedByte : Obligations.StepRunsReceivedByte := by
  intro s ag b q i hag hw hq hd
  obtain rfl : decodeByte b = i := Except.ok.inj hd
  exact step_of_receive_taken hag hw hq

/-! ### SOF, ESC and data (R112, R114 to R116) -/

/-- Settles O39: the three writes are those of `asmSof`. -/
theorem rxSofResult : Obligations.RxSofResult := fun _ => ⟨rfl, rfl⟩

theorem asmEsc_of_not_escp {s : State} (h : s.escp = false) : asmEsc s = { s with escp := true } := by
  simp [asmEsc, escpAfter, escerrAfterEsc, h]

theorem asmEsc_of_escp {s : State} (h : s.escp = true) : asmEsc s = { s with escp := true, escerr := true } := by
  simp [asmEsc, escpAfter, escerrAfterEsc, h]

/-- Settles O40: by whether an escape was pending. -/
theorem rxEscResult : Obligations.RxEscResult := fun _ =>
  ⟨rfl, fun h => congrArg Host.Outcome.next (asmEsc_of_not_escp h),
    fun h => congrArg Host.Outcome.next (asmEsc_of_escp h)⟩

theorem exec_rxData (b : Byte) (s : State) : exec (.rxData b) s = .next (asmData config b s) := rfl

/-- Settles O41: both cases of `asmData_cases`, once `v` and `e` are the model's value and flag. -/
theorem rxDataResult : Obligations.RxDataResult := by
  intro b v e s _ _ _ hraw hesc
  obtain ⟨rfl, rfl⟩ : v = dataValue s.escp b ∧ e = escerrAfterData s.escp s.escerr b := by
    cases hp : s.escp with
    | false => simpa [dataValue, escerrAfterData] using hraw hp
    | true =>
      obtain ⟨rfl, rfl⟩ := hesc hp
      exact ⟨rfl, rfl⟩
  rw [exec_rxData]
  obtain ⟨hlt, ht⟩ | ⟨hge, ht⟩ := asmData_cases config b s
  · exact ⟨rfl, fun _ => congrArg Host.Outcome.next ht, fun _ => by omega⟩
  · exact ⟨rfl, fun _ => by omega, fun _ => congrArg Host.Outcome.next ht⟩

/-! ### Reading the body (R44, R56) -/

theorem rxbufBody_eq_ok_iff {m : Memory} {L : Nat} {body : List Byte} :
    rxbufBody m L = .ok body ↔ body.length = L ∧ ∀ i < L, Memory.read m i = body[i]? := by
  simpa only [rxbufBody, Nat.zero_add] using rxbufFrom_eq_ok_iff m 0 L body

/-- The byte written right after a body is no part of it. -/
theorem rxbufBody_write_end {m : Memory} {L : Nat} {body : List Byte} (h : rxbufBody m L = .ok body) (v : Byte) :
    rxbufBody (Memory.write m L v) L = .ok body := by
  obtain ⟨hlen, hread⟩ := rxbufBody_eq_ok_iff.mp h
  refine rxbufBody_eq_ok_iff.mpr ⟨hlen, fun i hi => ?_⟩
  rw [Memory.read_write_other _ _ hi.ne, hread i hi]

/-- With that byte the body is one longer. -/
theorem rxbufBody_write_succ {m : Memory} {L : Nat} {body : List Byte} (h : rxbufBody m L = .ok body) (v : Byte) :
    rxbufBody (Memory.write m L v) (L + 1) = .ok (body ++ [v]) := by
  obtain ⟨rfl, hread⟩ := rxbufBody_eq_ok_iff.mp h
  refine rxbufBody_eq_ok_iff.mpr ⟨List.length_append, fun i hi => ?_⟩
  obtain hlt | rfl := Nat.lt_succ_iff_lt_or_eq.mp hi
  · rw [Memory.read_write_other _ _ hlt.ne, hread i hlt, List.getElem?_append_left hlt]
  · rw [Memory.read_write_same, List.getElem?_concat_length]

/-! ### EOF and frame completion (R113, R145, R146) -/

/-- A bad escape ends the wait with its status, and the body is not read. -/
theorem exec_rxEof_of_bad_escape {s : State} (hlt : s.rxidx < config.rxCap) (h : eofStatus s.escp s.escerr ≠ .ok) :
    exec .rxEof s = .next (endWait (eofStatus s.escp s.escerr) none (Claims.delivered s)) := by
  simp [exec_rxEof_of_lt hlt, consumeEvent, frameComplete, h]

/-- Without one, the wait gets what parsing the rebuilt frame gives: the terminator lies past the body. -/
theorem exec_rxEof_of_body {s : State} {body : List Byte} (hlt : s.rxidx < config.rxCap)
    (h : eofStatus s.escp s.escerr = .ok) (hbody : rxbufBody s.rxbuf s.rxidx = .ok body) :
    exec .rxEof s = .next (completeParsed config (Claims.delivered s) (parse config (rebuildFrame body))) := by
  have hread : rxbufBody (Claims.delivered s).rxbuf s.rxidx = .ok body := rxbufBody_write_end hbody 0x00#8
  simp [exec_rxEof_of_lt hlt, consumeEvent, frameComplete, h, hread]

/-- The machine's filter: its CHECK_DEST is false (R14), so that it tests the source and the command alone (R146). -/
theorem matchesWait_config_iff (m : Message) (s : State) :
    matchesWait config m s = true ↔ m.src = s.expSrc ∧ m.cmd = s.expCmd := by
  simp [matchesWait, config]

theorem completeParsed_of_match {cfg : Config} {m : Message} {s : State} (h : matchesWait cfg m s = true) :
    completeParsed cfg s (.ok m) = endWait .ok (some m) s :=
  if_pos h

theorem completeParsed_of_other {cfg : Config} {m : Message} {s : State} (h : ¬ matchesWait cfg m s = true) :
    completeParsed cfg s (.ok m) = s :=
  if_neg h

/-- Settles O42: ESCERR, then ESCP, then what the rebuilt frame parses to. -/
theorem rxEofResult : Obligations.RxEofResult := by
  intro s hidx
  have hcap : 1 ≤ config.rxCap := by decide
  have hlt : s.rxidx < config.rxCap := by omega
  refine ⟨rfl, fun he => ?_, fun he hp => ?_, fun he hp body hlen hread => ?_⟩
  · have hst : eofStatus s.escp s.escerr = .unrecognizedEscape := by simp [eofStatus, he]
    rw [exec_rxEof_of_bad_escape hlt (by simp [hst]), hst]
    rfl
  · have hst : eofStatus s.escp s.escerr = .truncatedEscape := by simp [eofStatus, he, hp]
    rw [exec_rxEof_of_bad_escape hlt (by simp [hst]), hst]
    rfl
  · have hst : eofStatus s.escp s.escerr = .ok := by simp [eofStatus, he, hp]
    rw [exec_rxEof_of_body hlt hst (rxbufBody_eq_ok_iff.mpr ⟨hlen, hread⟩)]
    have hframe : rebuildFrame body = [0xE2#8] ++ body ++ [0xE3#8] := rfl
    rw [hframe]
    refine ⟨fun e hparse => ?_, fun m hparse => ?_⟩ <;> rw [hparse]
    · rfl
    · have hfilter := matchesWait_config_iff m (Claims.delivered s)
      refine ⟨fun hm => ?_, fun hm => ?_⟩
      · rw [completeParsed_of_match (hfilter.mpr hm)]
        rfl
      · rw [completeParsed_of_other (fun h => hm (hfilter.mp h))]

end Sys2Proof.Machine
end

section
/-! PROOFS. Whole frames at the receive assembler (R118 to R126): what a run of bytes without an EOF does, the body that
a run of escape units collects, and the EOF that delivers it. -/

namespace Sys2Proof.Machine

open Sys2Proof.Claims (asmFeed wireBytes unitBytes)

/-! ### Feeding bytes (R111) -/

theorem asmFeed_append {cfg : Config} {xs ys : List Byte} {s t u : State} {es fs : List AsmEvent}
    (hx : asmFeed cfg xs s = .ok (t, es)) (hy : asmFeed cfg ys t = .ok (u, fs)) :
    asmFeed cfg (xs ++ ys) s = .ok (u, es ++ fs) := by
  induction xs generalizing s es with
  | nil =>
    cases hx
    exact hy
  | cons b xs ih =>
    simp only [asmFeed] at hx
    split at hx
    · cases hx
    · rename_i s' e hstep
      split at hx
      · cases hx
      · rename_i t' es' hrest
        cases hx
        simp only [List.cons_append, asmFeed, hstep, ih hrest]

/-- The bytes take the assembler from `s` to `t` and complete no frame. -/
def QuietRun (cfg : Config) (bs : List Byte) (s t : State) : Prop :=
  asmFeed cfg bs s = .ok (t, List.replicate bs.length .noEvent)

theorem QuietRun.nil (cfg : Config) (s : State) : QuietRun cfg [] s s := rfl

theorem QuietRun.single {cfg : Config} {b : Byte} {s t : State} (h : asmStep cfg b s = .ok (t, .noEvent)) :
    QuietRun cfg [b] s t := by
  simp [QuietRun, asmFeed, h]

theorem QuietRun.append {cfg : Config} {xs ys : List Byte} {s t u : State} (hx : QuietRun cfg xs s t)
    (hy : QuietRun cfg ys t u) : QuietRun cfg (xs ++ ys) s u := by
  rw [QuietRun, List.length_append, List.replicate_add]
  exact asmFeed_append hx hy

theorem QuietRun.cons {cfg : Config} {b : Byte} {bs : List Byte} {s t u : State}
    (hb : asmStep cfg b s = .ok (t, .noEvent)) (h : QuietRun cfg bs t u) : QuietRun cfg (b :: bs) s u :=
  (QuietRun.single hb).append h

/-- An EOF after a quiet run delivers what the run has collected (R113). -/
theorem QuietRun.eof {cfg : Config} {bs : List Byte} {s t : State} (h : QuietRun cfg bs s t)
    (hlt : t.rxidx < cfg.rxCap) :
    asmFeed cfg (bs ++ [eofByte]) s = .ok (Claims.delivered t,
      List.replicate bs.length .noEvent ++ [.frameComplete t.rxidx (eofStatus t.escp t.escerr)]) := by
  have hstep : asmStep cfg eofByte t =
      .ok (Claims.delivered t, .frameComplete t.rxidx (eofStatus t.escp t.escerr)) := asmEof_of_lt hlt
  exact asmFeed_append h (by simp [asmFeed, hstep])

/-! ### Bytes that are no EOF (R112, R114, R115) -/

theorem asmStep_sof (cfg : Config) (s : State) : asmStep cfg sofByte s = .ok (asmSof s, .noEvent) := rfl

theorem asmStep_esc (cfg : Config) (s : State) : asmStep cfg escByte s = .ok (asmEsc s, .noEvent) := rfl

theorem asmStep_data (cfg : Config) {b : Byte} (h : rxClass b = .data) (s : State) :
    asmStep cfg b s = .ok (asmData cfg b s, .noEvent) := by
  simp [asmStep, h]

@[simp] theorem asmData_escp (cfg : Config) (b : Byte) (s : State) : (asmData cfg b s).escp = false := by
  obtain ⟨-, ht⟩ | ⟨-, ht⟩ := asmData_cases cfg b s <;> rw [ht]

@[simp] theorem asmData_escerr (cfg : Config) (b : Byte) (s : State) :
    (asmData cfg b s).escerr = escerrAfterData s.escp s.escerr b := by
  obtain ⟨-, ht⟩ | ⟨-, ht⟩ := asmData_cases cfg b s <;> rw [ht]

theorem asmData_rxidx_lt {cfg : Config} {b : Byte} {s : State} (h : s.rxidx < cfg.rxCap) :
    (asmData cfg b s).rxidx < cfg.rxCap := by
  obtain ⟨hlt, ht⟩ | ⟨-, ht⟩ := asmData_cases cfg b s <;> rw [ht]
  · exact hlt
  · exact h

/-- A byte that is no EOF completes no frame and keeps the index in range, and ESCERR stays set unless it is a SOF. -/
theorem asmStep_of_ne_eof (cfg : Config) {b : Byte} (hb : b ≠ eofByte) (s : State) :
    ∃ t, asmStep cfg b s = .ok (t, .noEvent) ∧ (s.rxidx < cfg.rxCap → t.rxidx < cfg.rxCap) ∧
      (b ≠ sofByte → s.escerr = true → t.escerr = true) := by
  by_cases hs : b = sofByte
  · exact ⟨asmSof s, by rw [hs, asmStep_sof], Nat.zero_lt_of_lt, fun h => absurd hs h⟩
  by_cases he : b = escByte
  · exact ⟨asmEsc s, by rw [he, asmStep_esc], id, fun _ h => by simp [h]⟩
  have hd : rxClass b = .data := (rxClass_eq_data_iff b).mpr ⟨hs, hb, he⟩
  exact ⟨asmData cfg b s, asmStep_data cfg hd s, asmData_rxidx_lt, fun _ h => by simp [escerrAfterData, h]⟩

/-- The same of a run of such bytes. -/
theorem quietRun_of_no_eof (cfg : Config) {bs : List Byte} (h : eofByte ∉ bs) (s : State) :
    ∃ t, QuietRun cfg bs s t ∧ (s.rxidx < cfg.rxCap → t.rxidx < cfg.rxCap) ∧
      (sofByte ∉ bs → s.escerr = true → t.escerr = true) := by
  induction bs generalizing s with
  | nil => exact ⟨s, .nil cfg s, id, fun _ => id⟩
  | cons b bs ih =>
    obtain ⟨hb, hbs⟩ := List.ne_and_not_mem_of_not_mem_cons h
    obtain ⟨t, hstep, hidx, herr⟩ := asmStep_of_ne_eof cfg hb.symm s
    obtain ⟨u, hrun, hidx', herr'⟩ := ih hbs t
    refine ⟨u, hrun.cons hstep, fun hlt => hidx' (hidx hlt), fun hs he => ?_⟩
    obtain ⟨hs, hss⟩ := List.ne_and_not_mem_of_not_mem_cons hs
    exact herr' hss (herr hs.symm he)

/-! ### The body collected so far (R115, R116) -/

/-- The values of `body`, or as many of its first ones as fit, are the body collected since the last SOF. -/
def BodyIs (cfg : Config) (body : List Byte) (s : State) : Prop :=
  s.rxidx = min body.length (cfg.rxCap - 1) ∧ rxbufBody s.rxbuf s.rxidx = .ok (body.take (cfg.rxCap - 1))

theorem BodyIs.rxidx_lt {cfg : Config} {body : List Byte} {s : State} (h : BodyIs cfg body s)
    (hcap : 1 ≤ cfg.rxCap) : s.rxidx < cfg.rxCap := by
  obtain ⟨hidx, -⟩ := h
  omega

/-- The terminator of an EOF lies past the body (R113). -/
theorem BodyIs.delivered {cfg : Config} {body : List Byte} {s : State} (h : BodyIs cfg body s) :
    rxbufBody (Claims.delivered s).rxbuf s.rxidx = .ok (body.take (cfg.rxCap - 1)) := by
  obtain ⟨-, hread⟩ := h
  exact rxbufBody_write_end hread 0x00#8

/-- A data byte adds its value, which shows in the body where it fits. -/
theorem BodyIs.asmData {cfg : Config} {body : List Byte} {s : State} (h : BodyIs cfg body s) (b : Byte) :
    BodyIs cfg (body ++ [dataValue s.escp b]) (asmData cfg b s) := by
  obtain ⟨hidx, hbody⟩ := h
  rw [BodyIs, List.length_append, List.length_singleton]
  obtain ⟨hlt, ht⟩ | ⟨hge, ht⟩ := asmData_cases cfg b s
  · have hfits : body.length + 1 ≤ cfg.rxCap - 1 := by omega
    rw [List.take_of_length_le (by omega)] at hbody
    rw [ht, List.take_of_length_le (by simpa using hfits)]
    exact ⟨by dsimp only; omega, rxbufBody_write_succ hbody _⟩
  · have hfull : cfg.rxCap - 1 ≤ body.length := by omega
    rw [ht, List.take_append_of_le_length hfull]
    exact ⟨by dsimp only; omega, hbody⟩

/-- The body collected so far, with neither an escape pending nor a bad one seen. -/
def Collecting (cfg : Config) (body : List Byte) (s : State) : Prop :=
  BodyIs cfg body s ∧ s.escp = false ∧ s.escerr = false

theorem collecting_asmSof (cfg : Config) (s : State) : Collecting cfg [] (asmSof s) :=
  ⟨⟨by simp, by simp [rxbufBody, rxbufFrom]⟩, rfl, rfl⟩

/-- A legal unit as the assembler can receive it: raw, it is a data byte. -/
def UnitReceivable (u : Byte × Bool) : Prop :=
  (u.2 = true → isReserved u.1 = true) ∧ (u.2 = false → rxClass u.1 = .data)

/-- The second byte of an escape pair is a data byte (R70, R75). -/
theorem rxClass_escTransform {v : Byte} (h : isReserved v = true) : rxClass (escTransform v) = .data := by
  obtain rfl | rfl | rfl | rfl := (isReserved_iff v).mp h <;> decide

/-- A unit, raw or escaped, adds its value to the body. -/
theorem Collecting.unit {cfg : Config} {body : List Byte} {s : State} (h : Collecting cfg body s)
    {u : Byte × Bool} (hu : UnitReceivable u) :
    ∃ t, QuietRun cfg (unitBytes u) s t ∧ Collecting cfg (body ++ [u.1]) t := by
  obtain ⟨hbody, hp, he⟩ := h
  obtain ⟨v, escaped⟩ := u
  obtain ⟨hpair, hraw⟩ := hu
  cases escaped with
  | false =>
    have hnext := hbody.asmData v
    rw [hp] at hnext
    exact ⟨asmData cfg v s, .single (asmStep_data cfg (hraw rfl) s), hnext, by simp,
      by simp [escerrAfterData, hp, he]⟩
  | true =>
    have hres : isReserved v = true := hpair rfl
    have hesc : BodyIs cfg body (asmEsc s) := hbody
    have hnext := hesc.asmData (escTransform v)
    rw [asmEsc_escp, show dataValue true (escTransform v) = v from escTransform_escTransform v] at hnext
    exact ⟨asmData cfg (escTransform v) (asmEsc s),
      .cons (asmStep_esc cfg s) (.single (asmStep_data cfg (rxClass_escTransform hres) _)), hnext, by simp,
      by simp [escerrAfterData, hp, he, hres]⟩

theorem Collecting.units {cfg : Config} {body : List Byte} {s : State} (h : Collecting cfg body s)
    {us : List (Byte × Bool)} (hus : ∀ u ∈ us, UnitReceivable u) :
    ∃ t, QuietRun cfg (us.flatMap unitBytes) s t ∧ Collecting cfg (body ++ us.map (·.1)) t := by
  induction us generalizing body s with
  | nil => exact ⟨s, .nil cfg s, by simpa using h⟩
  | cons u us ih =>
    obtain ⟨hu, hus⟩ := List.forall_mem_cons.mp hus
    obtain ⟨t, hrun, ht⟩ := h.unit hu
    obtain ⟨t', hrun', ht'⟩ := ih ht hus
    exact ⟨t', hrun.append hrun', by simpa using ht'⟩

/-- A SOF, from any state, and the units after it: the body is the units' values. -/
theorem collecting_sof_units (cfg : Config) (s : State) {us : List (Byte × Bool)}
    (hus : ∀ u ∈ us, UnitReceivable u) :
    ∃ t, QuietRun cfg (sofByte :: us.flatMap unitBytes) s t ∧ Collecting cfg (us.map (·.1)) t := by
  obtain ⟨t, hrun, ht⟩ := (collecting_asmSof cfg s).units hus
  exact ⟨t, hrun.cons (asmStep_sof cfg s), ht⟩

/-! ### Frames that arrive with status OK (R116, R120, R122, R123) -/

/-- SOF, units, EOF: the EOF delivers the units' values, or as many of the first ones as fit, with status OK. -/
theorem asmFeed_units (cfg : Config) (s : State) {us : List (Byte × Bool)} (hcap : 1 ≤ cfg.rxCap)
    (hus : ∀ u ∈ us, UnitReceivable u) :
    ∃ t, asmFeed cfg (sofByte :: us.flatMap unitBytes ++ [eofByte]) s =
        .ok (t, List.replicate ((us.flatMap unitBytes).length + 1) .noEvent ++
          [.frameComplete (min us.length (cfg.rxCap - 1)) .ok]) ∧
      rxbufBody t.rxbuf (min us.length (cfg.rxCap - 1)) = .ok ((us.map (·.1)).take (cfg.rxCap - 1)) := by
  obtain ⟨t, hrun, hbody, hp, he⟩ := collecting_sof_units cfg s hus
  have hfeed := hrun.eof (hbody.rxidx_lt hcap)
  have hread := hbody.delivered
  obtain ⟨hidx, -⟩ := hbody
  rw [List.length_map] at hidx
  rw [hp, he, hidx] at hfeed
  rw [hidx] at hread
  exact ⟨Claims.delivered t, hfeed, hread⟩

theorem unitReceivable_stuffedUnit (b : Byte) : UnitReceivable (stuffedUnit b) := by
  refine ⟨id, fun hraw => (rxClass_eq_data_iff b).mpr ⟨?_, ?_, ?_⟩⟩ <;> rintro rfl <;> cases hraw

/-- The wire form of a frame (R65, R70). -/
theorem stuff_frame (interior : List Byte) :
    (stuff (0xE2#8 :: interior ++ [0xE3#8])).1 = sofByte :: interior.flatMap wireBytes ++ [eofByte] := by
  rw [stuff_cons_concat]
  rfl

/-- Settles O54: the stuffed interior is the units the stuffer writes, and all of them fit. -/
theorem wireFormIsReceived : Obligations.WireFormIsReceived := by
  rintro cfg s interior W rfl hfits
  have hus : ∀ u ∈ interior.map stuffedUnit, UnitReceivable u :=
    List.forall_mem_map.mpr fun b _ => unitReceivable_stuffedUnit b
  obtain ⟨t, hfeed, hbody⟩ := asmFeed_units cfg s (by omega) hus
  have hmin : min interior.length (cfg.rxCap - 1) = interior.length := by omega
  rw [List.length_map, hmin] at hfeed hbody
  rw [flatMap_unitBytes_stuffedUnit] at hfeed
  rw [map_fst_stuffedUnit, List.take_of_length_le (by omega)] at hbody
  refine ⟨t, ?_, hbody⟩
  rw [stuff_frame]
  simpa using hfeed

/-- Settles O55: SOF and the bytes after it complete nothing, and the wire form is received from any state. -/
theorem midFrameSofDiscards : Obligations.MidFrameSofDiscards := by
  intro cfg s xs interior W hxs hW hfits
  have hno : eofByte ∉ sofByte :: xs := List.not_mem_cons_of_ne_of_not_mem (by decide) hxs
  obtain ⟨t, hrun, -, -⟩ := quietRun_of_no_eof cfg hno s
  obtain ⟨u, hfeed, hbody⟩ := wireFormIsReceived cfg t interior W hW hfits
  refine ⟨u, ?_, hbody⟩
  have hlen : 1 ≤ W.length := by
    rw [hW, stuff_frame]
    simp
  have hcount : xs.length + W.length = (sofByte :: xs).length + (W.length - 1) := by
    rw [List.length_cons]
    omega
  rw [hcount, List.replicate_add, List.append_assoc]
  exact asmFeed_append hrun hfeed

/-- The unit of a byte that is written raw. -/
def rawUnit (b : Byte) : Byte × Bool := (b, false)

theorem flatMap_unitBytes_rawUnit (xs : List Byte) : (xs.map rawUnit).flatMap unitBytes = xs := by
  rw [List.flatMap_map]
  exact List.flatMap_singleton' xs

theorem map_fst_rawUnit (xs : List Byte) : (xs.map rawUnit).map (·.1) = xs := by
  rw [List.map_map]
  exact List.map_id xs

/-- Settles O56: each data byte is a raw unit. -/
theorem overflowKeepsFirstBytes : Obligations.OverflowKeepsFirstBytes := by
  intro cfg s xs hcap hdata
  have hus : ∀ u ∈ xs.map rawUnit, UnitReceivable u :=
    List.forall_mem_map.mpr fun b hb => ⟨nofun, fun _ => hdata b hb⟩
  obtain ⟨t, hfeed, hbody⟩ := asmFeed_units cfg s hcap hus
  rw [flatMap_unitBytes_rawUnit, List.length_map] at hfeed
  rw [List.length_map, map_fst_rawUnit] at hbody
  exact ⟨t, hfeed, hbody⟩

end Sys2Proof.Machine
end

section
/-! PROOFS. The receive assembler and the destuffer agree on a sequence with one SOF and one EOF (R126): both read the
bytes between them as escape units, up to the first bad escape where there is one. -/

namespace Sys2Proof.Machine

open Sys2Proof.Claims (asmFeed unitBytes UnitsLegal)

/-! ### The bytes between SOF and EOF as units (R102) -/

/-- What the bytes before a last one are: units alone, units and an ESC that nothing but the last byte follows, or units
and an ESC whose pair is no reserved value. -/
theorem units_before_last (mid : List Byte) {last : Byte} (hlast : last ≠ escByte) :
    ∃ (us : List (Byte × Bool)) (rest : List Byte), UnitsLegal us ∧ mid = us.flatMap unitBytes ++ rest ∧
      (rest = [] ∨ rest = [escByte] ∨
        ∃ (c : Byte) (after : List Byte), isReserved (escTransform c) = false ∧ rest = escByte :: c :: after) := by
  obtain ⟨us, tail, hus, hend, hmid⟩ := isUnitsThenEnd_of_ne_nil (w := mid ++ [last]) (by simp)
  obtain ⟨l, -, rfl⟩ | rfl | ⟨l, rfl⟩ | ⟨c, d, after, hc, rfl⟩ := hend
  · obtain ⟨hmid, -⟩ := List.append_inj' hmid rfl
    exact ⟨us, [], hus, by simpa using hmid, .inl rfl⟩
  · obtain ⟨-, hesc⟩ := List.append_inj' hmid rfl
    exact absurd (List.singleton_inj.mp hesc) hlast
  · rw [show [escByte, l] = [escByte] ++ [l] from rfl, ← List.append_assoc] at hmid
    obtain ⟨hmid, -⟩ := List.append_inj' hmid rfl
    exact ⟨us, [escByte], hus, hmid, .inr (.inl rfl)⟩
  · have htail : escByte :: c :: d :: after =
        (escByte :: c :: (d :: after).dropLast) ++ [(d :: after).getLast (by simp)] := by
      simp only [List.cons_append, List.dropLast_append_getLast]
    rw [htail, ← List.append_assoc] at hmid
    obtain ⟨hmid, -⟩ := List.append_inj' hmid rfl
    exact ⟨us, _, hus, hmid, .inr (.inr ⟨c, _, hc, rfl⟩)⟩

/-- Units written without a marker byte are received as they are destuffed. -/
theorem unitsReceivable_of_legal {us : List (Byte × Bool)} (hus : UnitsLegal us)
    (hsof : sofByte ∉ us.flatMap unitBytes) (heof : eofByte ∉ us.flatMap unitBytes) :
    ∀ u ∈ us, UnitReceivable u := by
  rintro ⟨v, escaped⟩ hu
  obtain ⟨hpair, hraw⟩ := hus _ hu
  refine ⟨hpair, ?_⟩
  rintro rfl
  have hv : v ∈ us.flatMap unitBytes := List.mem_flatMap.mpr ⟨_, hu, List.mem_singleton_self v⟩
  refine (rxClass_eq_data_iff v).mpr ⟨?_, ?_, hraw rfl⟩
  · rintro rfl
    exact hsof hv
  · rintro rfl
    exact heof hv

/-! ### A bad pair at the assembler (R114, R115) -/

/-- After an ESC, a byte that is no marker of a frame and makes no reserved value sets ESCERR. -/
theorem asmStep_bad_pair (cfg : Config) {c : Byte} {s : State} (hp : s.escp = true) (hsof : c ≠ sofByte)
    (heof : c ≠ eofByte) (hc : isReserved (escTransform c) = false) :
    ∃ t, asmStep cfg c s = .ok (t, .noEvent) ∧ (s.rxidx < cfg.rxCap → t.rxidx < cfg.rxCap) ∧ t.escerr = true := by
  by_cases he : c = escByte
  · exact ⟨asmEsc s, by rw [he, asmStep_esc], id, by simp [hp]⟩
  · have hd : rxClass c = .data := (rxClass_eq_data_iff c).mpr ⟨hsof, heof, he⟩
    exact ⟨asmData cfg c s, asmStep_data cfg hd s, asmData_rxidx_lt, by simp [escerrAfterData, hp, hc]⟩

/-- It stays set over whatever follows in the same frame. -/
theorem quietRun_bad_pair (cfg : Config) {c : Byte} {after : List Byte} (s : State)
    (hsof : sofByte ∉ escByte :: c :: after) (heof : eofByte ∉ escByte :: c :: after)
    (hc : isReserved (escTransform c) = false) :
    ∃ t, QuietRun cfg (escByte :: c :: after) s t ∧ (s.rxidx < cfg.rxCap → t.rxidx < cfg.rxCap) ∧
      t.escerr = true := by
  simp only [List.mem_cons, not_or] at hsof heof
  obtain ⟨-, hcsof, hsof⟩ := hsof
  obtain ⟨-, hceof, heof⟩ := heof
  obtain ⟨t, hstep, hidx, herr⟩ := asmStep_bad_pair cfg (asmEsc_escp s) (Ne.symm hcsof) (Ne.symm hceof) hc
  obtain ⟨u, hrun, hidx', herr'⟩ := quietRun_of_no_eof cfg heof t
  exact ⟨u, (hrun.cons hstep).cons (asmStep_esc cfg s), fun hlt => hidx' (hidx hlt), herr' hsof herr⟩

/-! ### The two verdicts (R126) -/

theorem destuffTail_bad_pair_concat (i : Nat) {c : Byte} (after : List Byte) (last : Byte)
    (hc : isReserved (escTransform c) = false) :
    destuffTail i (escByte :: c :: after ++ [last]) = .error (.unrecognized i) := by
  cases after with
  | nil => exact destuffTail_bad_pair i last [] hc
  | cons d after => exact destuffTail_bad_pair i d (after ++ [last]) hc

theorem slice_interior (first last : Byte) (interior : List Byte) :
    slice (first :: interior ++ [last]) 1 ((first :: interior ++ [last]).length - 1) = interior := by
  simp [slice]

/-- A body that fits, against the frame `U` whose interior it is. -/
theorem BodyIs.delivered_interior {cfg : Config} {interior U : List Byte} {first last : Byte} {t : State}
    (h : BodyIs cfg interior t) (hU : U = first :: interior ++ [last]) (hfits : U.length - 2 ≤ cfg.rxCap - 1) :
    t.rxidx = U.length - 2 ∧
      rxbufBody (Claims.delivered t).rxbuf t.rxidx = .ok (slice U 1 (U.length - 1)) := by
  subst hU
  have hlen : (first :: interior ++ [last]).length - 2 = interior.length := by simp
  rw [hlen] at hfits ⊢
  have hbody := h.delivered
  obtain ⟨hidx, -⟩ := h
  rw [List.take_of_length_le hfits] at hbody
  rw [slice_interior]
  exact ⟨by omega, hbody⟩

/-- Settles O57: by the three forms of `units_before_last`; `destuff_units` gives the destuffer's verdict on each, and
the run of the same units the assembler's. -/
theorem assemblerAgreesWithDestuff : Obligations.AssemblerAgreesWithDestuff := by
  rintro cfg s mid W hcap hsof heof rfl
  obtain ⟨us, rest, hus, rfl, hrest⟩ := units_before_last mid (last := eofByte) (by decide)
  rw [List.mem_append, not_or] at hsof heof
  obtain ⟨hsof, hsof'⟩ := hsof
  obtain ⟨heof, heof'⟩ := heof
  have hdestuff : destuff (0xE2#8 :: (us.flatMap unitBytes ++ rest) ++ [0xE3#8]) =
      (destuffTail (1 + (us.flatMap unitBytes).length) (rest ++ [eofByte])).map (sofByte :: us.map (·.1) ++ ·) := by
    rw [← destuff_units sofByte hus (by simp), List.cons_append, List.append_assoc]
    rfl
  obtain ⟨t, hrun, hbody, hp, he⟩ := collecting_sof_units cfg s (unitsReceivable_of_legal hus hsof heof)
  have hlt := hbody.rxidx_lt hcap
  obtain rfl | rfl | ⟨c, after, hc, rfl⟩ := hrest
  · have hst : eofStatus t.escp t.escerr = .ok := by simp [eofStatus, hp, he]
    rw [List.nil_append, destuffTail_last _ (by decide)] at hdestuff
    rw [List.append_nil] at hdestuff ⊢
    refine ⟨_, _, _, hrun.eof hlt, ?_⟩
    rw [hdestuff]
    exact ⟨fun U hU => ⟨hst, hbody.delivered_interior (Except.ok.inj hU).symm⟩, nofun, nofun⟩
  · have hst : eofStatus (asmEsc t).escp (asmEsc t).escerr = .truncatedEscape := by simp [eofStatus, hp, he]
    rw [List.singleton_append, destuffTail_esc_before_last] at hdestuff
    refine ⟨_, _, _, (hrun.append (.single (asmStep_esc cfg t))).eof hlt, ?_⟩
    rw [hdestuff]
    exact ⟨nofun, nofun, fun _ _ => hst⟩
  · obtain ⟨t', hrun', hidx, herr⟩ := quietRun_bad_pair cfg t hsof' heof' hc
    have hst : eofStatus t'.escp t'.escerr = .unrecognizedEscape := by simp [eofStatus, herr]
    rw [destuffTail_bad_pair_concat _ after eofByte hc] at hdestuff
    refine ⟨_, _, _, (hrun.append hrun').eof (hidx hlt), ?_⟩
    rw [hdestuff]
    exact ⟨nofun, fun _ _ => hst, nofun⟩

end Sys2Proof.Machine
end

section
/-! PROOFS. The frame builder and parser (R127 to R138): one lemma for each of the parser's checks, and what the checks
find in a built frame, whole or with one byte corrupted. -/

namespace Sys2Proof.Machine

/-! ### Building (R127, R128, R138) -/

theorem build_of_le {dest cmd : Byte} {payload : List Byte} (cfg : Config) (h : payload.length ≤ 247) :
    build cfg dest cmd payload = .ok (frameHead cfg dest cmd payload ++
      [hi (crc16 cfg (frameHead cfg dest cmd payload)), lo (crc16 cfg (frameHead cfg dest cmd payload)), eofByte]) :=
  build_eq_ok_iff.mpr ⟨h, by rw [List.append_assoc]; rfl⟩

/-- The frame with its last three bytes set apart, as the parser reads it. -/
theorem eq_of_build {cfg : Config} {dest cmd : Byte} {payload f : List Byte} (h : build cfg dest cmd payload = .ok f) :
    f = frameHead cfg dest cmd payload ++
      [hi (crc16 cfg (frameHead cfg dest cmd payload)), lo (crc16 cfg (frameHead cfg dest cmd payload)), eofByte] :=
  Except.ok.inj (h.symm.trans (build_of_le cfg (build_ok_length h)))

theorem build_of_gt {dest cmd : Byte} {payload : List Byte} (cfg : Config) (h : 247 < payload.length) :
    build cfg dest cmd payload = .error .payloadTooLarge :=
  if_pos (by simp only [maxTotal, overhead]; omega)

theorem exec_build (dest cmd : Byte) (payload : List Byte) (s : State) :
    exec (.build dest cmd payload) s = .next (respond (buildResponse (build config dest cmd payload)) s) := rfl

theorem exec_build_of_ok {dest cmd : Byte} {payload f : List Byte} (h : build config dest cmd payload = .ok f)
    (s : State) :
    exec (.build dest cmd payload) s = .next (Claims.answered s (0x00#8 :: len16 (payload.length + 8) ++ f)) := by
  rw [exec_build, h, ← build_frame_length h]
  rfl

/-- Settles O26: by what `build` gives on either side of 247 bytes. -/
theorem buildResult : Obligations.BuildResult := by
  rintro dest cmd P s head c rfl rfl
  refine ⟨rfl, fun h => exec_build_of_ok (build_of_le config h) s, fun h => ?_⟩
  rw [exec_build, build_of_gt config h]
  rfl

/-- Settles O32: the layout of `build_of_le` at the scenario's values. -/
theorem buildScenario : Obligations.BuildScenario := by
  rintro cfg head rfl
  exact build_of_le cfg (by decide)

/-! ### The parser's checks, in their order (R129, R130) -/

theorem getElem?_eq_some_iff_byteAt {f : List Byte} {i : Nat} {b : Byte} :
    f[i]? = some b ↔ i < f.length ∧ byteAt f i = b := by
  rw [List.getElem?_eq_some_iff, byteAt]
  refine ⟨fun ⟨hi, hb⟩ => ⟨hi, by rw [List.getD_eq_getElem _ _ hi, hb]⟩, fun ⟨hi, hb⟩ => ⟨hi, ?_⟩⟩
  rwa [List.getD_eq_getElem _ _ hi] at hb

theorem getElem?_map_toNat_eq_some_iff_byteAt {f : List Byte} {i n : Nat} :
    f[i]?.map BitVec.toNat = some n ↔ i < f.length ∧ (byteAt f i).toNat = n := by
  simp only [Option.map_eq_some_iff, getElem?_eq_some_iff_byteAt]
  exact ⟨fun ⟨_, ⟨hi, hb⟩, hn⟩ => ⟨hi, hb ▸ hn⟩, fun ⟨hi, hn⟩ => ⟨_, ⟨hi, rfl⟩, hn⟩⟩

/-- Step 1 fails unless byte 0 is there and is SOF. -/
theorem start_guard_iff (f : List Byte) : (f.length < 1 ∨ byteAt f 0 ≠ sofByte) ↔ f[0]? ≠ some sofByte := by
  rw [ne_eq, ne_eq, getElem?_eq_some_iff_byteAt, not_and_or]
  exact or_congr_left (by omega)

/-- Step 2 fails unless byte 2 is there and holds the frame's length. -/
theorem length_guard_iff (f : List Byte) :
    (f.length < 3 ∨ (byteAt f 2).toNat ≠ f.length) ↔ f[2]?.map BitVec.toNat ≠ some f.length := by
  rw [ne_eq, ne_eq, getElem?_map_toNat_eq_some_iff_byteAt, not_and_or]
  exact or_congr_left (by omega)

section

variable {cfg : Config} {f : List Byte}

theorem parse_invalidStart (h : f[0]? ≠ some sofByte) : parse cfg f = .error .invalidStart :=
  if_pos ((start_guard_iff f).mpr h)

theorem parse_lengthMismatch (hsof : f[0]? = some sofByte) (h : f[2]?.map BitVec.toNat ≠ some f.length) :
    parse cfg f = .error .lengthMismatch := by
  rw [parse, if_neg ((start_guard_iff f).not_left.mpr hsof), if_pos ((length_guard_iff f).mpr h)]

variable {front : List Byte} {h l last : Byte}

/-- Steps 3 to 5, on a frame that ends with a CRC field and a last byte. -/
theorem parse_of_length (hsof : f[0]? = some sofByte) (hlen : f[2]?.map BitVec.toNat = some f.length)
    (hf : f = front ++ [h, l, last]) :
    parse cfg f =
      if crc16 cfg front ≠ be16 h l then .error .checksumMismatch
      else if last ≠ eofByte then .error .missingTerminator
      else if f.length < 8 then .error .lengthMismatch
      else .ok { dest := byteAt f 1, src := byteAt f 3, cmd := byteAt f 4, len := byteAt f 2,
                 payload := front.drop 5 } := by
  obtain ⟨-, hbyte⟩ := getElem?_map_toNat_eq_some_iff_byteAt.mp hlen
  have hcount : f.length = front.length + 3 := by rw [hf]; simp
  have hfront : f.take (f.length - 3) = front := by rw [hcount, hf]; simp
  have htail : ∀ k, byteAt f (front.length + k) = byteAt [h, l, last] k := fun k => by
    rw [hf, byteAt, List.getD_append_right _ _ _ _ (by omega), Nat.add_sub_cancel_left, byteAt]
  have hh : byteAt f (f.length - 3) = h := by rw [hcount]; exact htail 0
  have hl : byteAt f (f.length - 2) = l := by rw [hcount]; exact htail 1
  have hlast : byteAt f (f.length - 1) = last := by rw [hcount]; exact htail 2
  rw [parse, if_neg ((start_guard_iff f).not_left.mpr hsof), if_neg ((length_guard_iff f).not_left.mpr hlen)]
  simp only [slice, hfront, List.drop_zero, hh, hl, hlast, hbyte, overhead, headerLen]

theorem parse_checksumMismatch (hsof : f[0]? = some sofByte) (hlen : f[2]?.map BitVec.toNat = some f.length)
    (hf : f = front ++ [h, l, last]) (hcrc : crc16 cfg front ≠ be16 h l) :
    parse cfg f = .error .checksumMismatch := by
  rw [parse_of_length hsof hlen hf, if_pos hcrc]

theorem parse_missingTerminator (hsof : f[0]? = some sofByte) (hlen : f[2]?.map BitVec.toNat = some f.length)
    (hf : f = front ++ [h, l, last]) (hcrc : crc16 cfg front = be16 h l) (hlast : last ≠ eofByte) :
    parse cfg f = .error .missingTerminator := by
  rw [parse_of_length hsof hlen hf, if_neg (not_not.mpr hcrc), if_pos hlast]

theorem parse_short (hsof : f[0]? = some sofByte) (hlen : f[2]?.map BitVec.toNat = some f.length)
    (hf : f = front ++ [h, l, eofByte]) (hcrc : crc16 cfg front = be16 h l) (hshort : f.length < 8) :
    parse cfg f = .error .lengthMismatch := by
  rw [parse_of_length hsof hlen hf, if_neg (not_not.mpr hcrc), if_neg (not_not.mpr rfl), if_pos hshort]

/-- The frame of R66 with a CRC that checks is accepted. -/
theorem parse_of_fields {dest len src cmd : Byte} {payload : List Byte}
    (hf : f = [sofByte, dest, len, src, cmd] ++ payload ++ [h, l, eofByte]) (hlen : len.toNat = f.length)
    (hcrc : crc16 cfg ([sofByte, dest, len, src, cmd] ++ payload) = be16 h l) :
    parse cfg f = .ok { dest := dest, src := src, cmd := cmd, len := len, payload := payload } := by
  have hcount : ¬ f.length < 8 := by rw [hf]; simp
  rw [parse_of_length (by rw [hf]; rfl) (by rw [← hlen, hf]; rfl) hf, if_neg (not_not.mpr hcrc),
    if_neg (not_not.mpr rfl), if_neg hcount, hf]
  rfl

end

/-! ### PARSE (R131, R136) -/

theorem exec_parse (f : List Byte) (s : State) :
    exec (.parse f) s = .next (respond (parseResponse (parse config f)) s) := rfl

theorem exec_parse_of_error {f : List Byte} {e : Status} (h : parse config f = .error e) (s : State) :
    exec (.parse f) s = .next (Claims.answered s [e.code]) := by
  rw [exec_parse, h]
  rfl

theorem exec_parse_of_ok {f : List Byte} {m : Message} (h : parse config f = .ok m) (s : State) :
    exec (.parse f) s = .next (Claims.answered s ([0x00#8, m.dest, m.src, m.cmd, m.len] ++ m.payload)) := by
  rw [exec_parse, h]
  rfl

/-- The last three bytes, after the bytes that the CRC is over. -/
theorem eq_take_append_tail {f : List Byte} {h l last : Byte} (hlen : 3 ≤ f.length)
    (hh : f[f.length - 3]? = some h) (hl : f[f.length - 2]? = some l) (hlast : f.getLast? = some last) :
    f = f.take (f.length - 3) ++ [h, l, last] := by
  rw [List.getLast?_eq_getElem?] at hlast
  have htail : f.drop (f.length - 3) = [h, l, last] := by
    refine List.ext_getElem? fun i => ?_
    rw [List.getElem?_drop]
    match i with
    | 0 => exact hh
    | 1 => rwa [show f.length - 3 + 1 = f.length - 2 by omega]
    | 2 => rwa [show f.length - 3 + 2 = f.length - 1 by omega]
    | i + 3 => rw [List.getElem?_eq_none (by omega)]; rfl
  rw [← htail, List.take_append_drop]

/-- Settles O28: each clause is one check's lemma, once the last three bytes are split off. -/
theorem parseResult : Obligations.ParseResult := by
  refine fun F s => ⟨rfl, fun hsof => exec_parse_of_error (parse_invalidStart hsof) s, fun hsof => ⟨fun hlen =>
    exec_parse_of_error (parse_lengthMismatch hsof hlen) s, fun hlen h l last hh hl hlast => ?_⟩⟩
  obtain ⟨hlt, -⟩ := getElem?_map_toNat_eq_some_iff_byteAt.mp hlen
  have hF := eq_take_append_tail hlt hh hl hlast
  refine ⟨fun hcrc => exec_parse_of_error (parse_checksumMismatch hsof hlen hF hcrc) s, fun hcrc =>
    ⟨fun hne => exec_parse_of_error (parse_missingTerminator hsof hlen hF hcrc hne) s, ?_⟩⟩
  rintro rfl
  refine ⟨fun hshort => exec_parse_of_error (parse_short hsof hlen hF hcrc hshort) s,
    fun dest len src cmd P hform => ?_⟩
  obtain ⟨hfront, -⟩ := List.append_inj' (hF.symm.trans hform) rfl
  rw [hfront] at hcrc
  have hfield : len.toNat = F.length := by
    rw [hform] at hlen ⊢
    exact Option.some.inj hlen
  exact exec_parse_of_ok (parse_of_fields hform hfield hcrc) s

/-- Settles O30: the length byte is there and holds 11, not 12. -/
theorem declaredLengthMismatchReported : Obligations.DeclaredLengthMismatchReported := by
  intro F s hsof hbyte hlen
  refine exec_parse_of_error (parse_lengthMismatch hsof ?_) s
  rw [hbyte, hlen]
  decide

/-! ### Built frames, whole and corrupted (R134, R137) -/

theorem build_length_field {dest cmd : Byte} {payload f : List Byte} {cfg : Config}
    (h : build cfg dest cmd payload = .ok f) : (BitVec.ofNat 8 (payload.length + 8)).toNat = f.length := by
  have hle := build_ok_length h
  rw [build_frame_length h, BitVec.toNat_ofNat]
  omega

/-- A built frame passes every check, its CRC being over the same bytes (R134). -/
theorem parse_build {cfg : Config} {dest cmd : Byte} {payload f : List Byte} (h : build cfg dest cmd payload = .ok f) :
    parse cfg f = .ok { dest := dest, src := cfg.localAddr, cmd := cmd, len := BitVec.ofNat 8 (payload.length + 8),
                        payload := payload } := by
  have hlen := build_length_field h
  exact parse_of_fields (eq_of_build h) hlen (be16_hi_lo _).symm

/-- Settles O29: such a payload is built, and `parse_build` parses the frame. -/
theorem parseInvertsBuild : Obligations.ParseInvertsBuild := fun cfg _ _ _ hP =>
  ⟨_, build_of_le cfg hP, parse_build (build_of_le cfg hP)⟩

section

variable {cfg : Config} {dest cmd b b' : Byte} {payload f : List Byte} {i : Nat}

/-- Byte 2 alone declares the frame's length. -/
theorem parse_build_set_length (h : build cfg dest cmd payload = .ok f) (hb : f[2]? = some b) (hne : b' ≠ b) :
    parse cfg (f.set 2 b') = .error .lengthMismatch := by
  obtain ⟨-, -, hsof, -, hlen, -⟩ := builtFrameLayout cfg dest cmd payload f h
  obtain ⟨hlt, -⟩ := List.getElem?_eq_some_iff.mp hb
  refine parse_lengthMismatch (by rwa [List.getElem?_set_ne (by decide)]) fun hlen' => hne ?_
  rw [hb] at hlen
  rw [List.getElem?_set_self hlt, List.length_set, ← hlen] at hlen'
  exact BitVec.eq_of_toNat_eq (Option.some.inj hlen')

/-- A byte that is neither SOF nor the length field leaves the first two checks as they are. -/
theorem build_set_header (h : build cfg dest cmd payload = .ok f) (h0 : i ≠ 0) (h2 : i ≠ 2) :
    (f.set i b')[0]? = some sofByte ∧ (f.set i b')[2]?.map BitVec.toNat = some (f.set i b').length := by
  obtain ⟨-, -, hsof, -, hlen, -⟩ := builtFrameLayout cfg dest cmd payload f h
  rw [List.getElem?_set_ne h0, List.getElem?_set_ne h2, List.length_set]
  exact ⟨hsof, hlen⟩

/-- What the rest of the checks report: the CRC's range and its field are `ChecksumMismatch`, and the last byte is
`MissingTerminator`. -/
theorem parse_build_set_rest (hpoly : cfg.crcPoly = specPoly cfg.crcForm) (h : build cfg dest cmd payload = .ok f)
    (h0 : i ≠ 0) (h2 : i ≠ 2) (hb : f[i]? = some b) (hne : b' ≠ b) :
    parse cfg (f.set i b') = .error (if i + 1 = f.length then .missingTerminator else .checksumMismatch) := by
  obtain ⟨hsof, hlen⟩ := build_set_header (b' := b') h h0 h2
  have hf := eq_of_build h
  generalize frameHead cfg dest cmd payload = head at hf
  have hcount : f.length = head.length + 3 := by rw [hf]; simp
  obtain hlt | hge := Nat.lt_or_ge i head.length
  · rw [hf, List.getElem?_append_left hlt] at hb
    rw [if_neg (by omega)]
    refine parse_checksumMismatch hsof hlen (by rw [hf, List.set_append_left _ _ hlt]) ?_
    rw [be16_hi_lo]
    exact foldl_crcUpdate_set_ne hpoly hb hne crcSeed
  · obtain ⟨k, rfl⟩ := Nat.exists_eq_add_of_le hge
    rw [hf, List.getElem?_append_right hge, Nat.add_sub_cancel_left] at hb
    have hset : f.set (head.length + k) b' =
        head ++ [hi (crc16 cfg head), lo (crc16 cfg head), eofByte].set k b' := by
      rw [hf, List.set_append_right _ _ hge, Nat.add_sub_cancel_left]
    match k with
    | 0 =>
      cases hb
      rw [if_neg (by omega)]
      exact parse_checksumMismatch hsof hlen hset fun hcrc => hne (by rw [hcrc, hi_be16])
    | 1 =>
      cases hb
      rw [if_neg (by omega)]
      exact parse_checksumMismatch hsof hlen hset fun hcrc => hne (by rw [hcrc, lo_be16])
    | 2 =>
      cases hb
      rw [if_pos (by omega)]
      exact parse_missingTerminator hsof hlen hset (be16_hi_lo _).symm hne
    | k + 3 => cases hb

end

/-- Settles O31: SOF, the length field and the rest of the frame each meet a check of their own. -/
theorem singleByteCorruptionStatus : Obligations.SingleByteCorruptionStatus := by
  intro cfg dest cmd P F i b e hpoly hF hb he
  have hne : b ^^^ e ≠ b := fun h => he ((BitVec.xor_right_inj _).mp (h.trans BitVec.xor_zero.symm))
  by_cases h0 : i = 0
  · subst h0
    obtain ⟨hlt, -⟩ := List.getElem?_eq_some_iff.mp hb
    obtain ⟨-, -, hsof, -⟩ := builtFrameLayout cfg dest cmd P F hF
    refine parse_invalidStart fun h => hne ?_
    rw [List.getElem?_set_self hlt] at h
    exact Option.some.inj (h.trans (hsof.symm.trans hb))
  by_cases h2 : i = 2
  · subst h2
    exact parse_build_set_length hF hb hne
  rw [if_neg h0, if_neg h2]
  exact parse_build_set_rest hpoly hF h0 h2 hb hne

end Sys2Proof.Machine
end

section
/-! PROOFS. A frame through the machine (R117, R135): a run of receive turns works the assembler as the bytes fed to it
alone do, and the EOF that ends the wire form ends the wait. -/

namespace Sys2Proof.Machine

open Sys2Proof.Claims (asmFeed wireBytes)

/-! ### The parser and the local address (R129) -/

/-- Of the configuration the parser reads what the CRC does (R92), so that it reads a peer's frame as the peer's own. -/
theorem parse_localAddr (cfg : Config) (a : Byte) (f : List Byte) : parse { cfg with localAddr := a } f = parse cfg f :=
  rfl

/-! ### Receive turns (R117) -/

/-- `s` with the assembler of `a`, and these bytes to receive on these turns. -/
def receiving (s a : State) (q : List Byte) (ag : List Event) : State :=
  { s with rxbuf := a.rxbuf, rxidx := a.rxidx, escp := a.escp, escerr := a.escerr, rxq := q, agenda := ag }

theorem receiving_self (s : State) : receiving s s s.rxq s.agenda = s := rfl

theorem asmData_receiving (cfg : Config) (b : Byte) (s a : State) (q : List Byte) (ag : List Event) :
    asmData cfg b (receiving s a q ag) = receiving s (asmData cfg b a) q ag := by
  by_cases hfits : a.rxidx + 1 < cfg.rxCap <;> simp [asmData, store, receiving, hfits]

/-- A byte that completes no frame works the assembler alone. -/
theorem asmStep_receiving {cfg : Config} {b : Byte} {a a' : State} (h : asmStep cfg b a = .ok (a', .noEvent))
    (s : State) (q : List Byte) (ag : List Event) :
    asmStep cfg b (receiving s a q ag) = .ok (receiving s a' q ag, .noEvent) := by
  unfold asmStep at h ⊢
  cases hb : rxClass b <;> simp only [hb] at h ⊢
  case sof | esc =>
    cases h
    rfl
  case data =>
    cases h
    rw [asmData_receiving]
  case eof =>
    obtain hlt | hge := Nat.lt_or_ge a.rxidx cfg.rxCap
    · cases (asmEof_of_lt hlt).symm.trans h
    · cases (asmEof_of_ge hge).symm.trans h

section

variable {s : State} (hw : s.wstate = .waiting)
include hw

/-- A turn takes the oldest byte and runs its row on what is left. -/
theorem step_receiving (a : State) (b : Byte) (q : List Byte) (ag : List Event) :
    step (receiving s a (b :: q) (.receive :: ag)) = exec (decodeByte b) (receiving s a q ag) :=
  step_of_receive_taken (s := receiving s a (b :: q) (.receive :: ag)) rfl hw rfl

theorem step_receiving_of_noEvent {a a' : State} {b : Byte} (h : asmStep config b a = .ok (a', .noEvent))
    (q : List Byte) (ag : List Event) :
    step (receiving s a (b :: q) (.receive :: ag)) = .next (receiving s a' q ag) := by
  rw [step_receiving hw, exec_decodeByte, asmStep_receiving h]
  rfl

end

/-! ### Runs of receive turns -/

theorem run_one (s : State) : Sys2Proof.core.run 1 s = step s := by
  have hstep : Sys2Proof.core.step s = step s := rfl
  simp only [Host.Core.run, hstep]
  cases step s <;> rfl

theorem run_succ_of_step {s t : State} (h : step s = .next t) (k : Nat) :
    Sys2Proof.core.run (k + 1) s = Sys2Proof.core.run k t := by
  have hstep : Sys2Proof.core.step s = .next t := h
  simp only [Host.Core.run, hstep]

/-- The first byte of a quiet run completes no frame, and neither do the others. -/
theorem QuietRun.of_cons {cfg : Config} {b : Byte} {bs : List Byte} {a t : State} (h : QuietRun cfg (b :: bs) a t) :
    ∃ a', asmStep cfg b a = .ok (a', .noEvent) ∧ QuietRun cfg bs a' t := by
  simp only [QuietRun, asmFeed, List.length_cons, List.replicate_succ] at h
  split at h
  · cases h
  · rename_i a' e hstep
    split at h
    · cases h
    · rename_i t' es hrest
      cases h
      exact ⟨a', hstep, hrest⟩

/-- In a wait, the turns of a quiet run take its bytes and work the assembler alone. -/
theorem run_receiving {s a t : State} {bs : List Byte} (hw : s.wstate = .waiting) (h : QuietRun config bs a t)
    (q : List Byte) (ag : List Event) (k : Nat) :
    Sys2Proof.core.run (bs.length + k) (receiving s a (bs ++ q) (List.replicate bs.length .receive ++ ag)) =
      Sys2Proof.core.run k (receiving s t q ag) := by
  induction bs generalizing a with
  | nil =>
    cases h
    rw [List.length_nil, Nat.zero_add]
    rfl
  | cons b bs ih =>
    obtain ⟨a', hstep, hrest⟩ := h.of_cons
    rw [List.length_cons, Nat.add_right_comm, List.replicate_succ]
    exact (run_succ_of_step (step_receiving_of_noEvent hw hstep _ _) _).trans (ih hrest)

/-- In a wait, the turns of a wire form collect its interior and leave its EOF to run (R117, R120). -/
theorem run_wire_form {s : State} {interior W q : List Byte} {ag : List Event} (hw : s.wstate = .waiting)
    (hW : W = (stuff (sofByte :: interior ++ [eofByte])).1) (hq : s.rxq = W ++ q)
    (hag : s.agenda = List.replicate W.length .receive ++ ag) :
    ∃ t, Collecting config interior t ∧ Sys2Proof.core.run W.length s = exec .rxEof (receiving s t q ag) := by
  have hus : ∀ u ∈ interior.map stuffedUnit, UnitReceivable u :=
    List.forall_mem_map.mpr fun b _ => unitReceivable_stuffedUnit b
  obtain ⟨t, hrun, ht⟩ := collecting_sof_units config s hus
  rw [flatMap_unitBytes_stuffedUnit] at hrun
  rw [map_fst_stuffedUnit] at ht
  refine ⟨t, ht, ?_⟩
  obtain rfl : W = sofByte :: interior.flatMap wireBytes ++ [eofByte] := hW.trans (stuff_frame interior)
  generalize sofByte :: interior.flatMap wireBytes = bs at hrun hq hag
  have hself : receiving s s (bs ++ eofByte :: q) (List.replicate bs.length .receive ++ .receive :: ag) = s := by
    rw [← receiving_self s, hq, hag, List.length_append, List.replicate_add, List.append_assoc, List.append_assoc]
    rfl
  have hturns := run_receiving hw hrun (eofByte :: q) (.receive :: ag) 1
  rw [hself, run_one, step_receiving hw, decodeByte_eof] at hturns
  rw [List.length_append]
  exact hturns

/-! ### The end of the wait (R145, R146) -/

/-- An EOF after a body whose frame is accepted and matches ends the wait with its message. -/
theorem exec_rxEof_of_match {s : State} {body : List Byte} {m : Message} (hs : Collecting config body s)
    (hfits : body.length < config.rxCap) (hparse : parse config (rebuildFrame body) = .ok m)
    (hm : m.src = s.expSrc ∧ m.cmd = s.expCmd) :
    exec .rxEof s = .next (endWait .ok (some m) (Claims.delivered s)) := by
  obtain ⟨hbody, hp, he⟩ := hs
  have hlt := hbody.rxidx_lt (by decide)
  obtain ⟨-, hread⟩ := hbody
  rw [List.take_of_length_le (by omega)] at hread
  have hmatch : matchesWait config m (Claims.delivered s) = true := (matchesWait_config_iff m _).mpr hm
  rw [exec_rxEof_of_body hlt (by simp [eofStatus, hp, he]) hread, hparse, completeParsed_of_match hmatch]

/-- Settles O58: the turns collect the frame's interior, and the EOF completes the frame, which parses to the message
that the wait is for. -/
theorem endToEndDelivery : Obligations.EndToEndDelivery := by
  rintro peer dest cmd P F W q ag s hF hW hw rfl rfl hq hag
  have hlen := build_frame_length hF
  have hP := build_ok_length hF
  have hparse := parse_build hF
  rw [parse_localAddr] at hparse
  obtain ⟨interior, rfl⟩ := build_frame_markers hF
  simp only [List.length_append, List.length_cons, List.length_nil] at hlen
  have hfits : interior.length < config.rxCap := by
    show interior.length < 256
    omega
  obtain ⟨t, ht, hrun⟩ := run_wire_form hw hW hq hag
  have ht' : Collecting config interior (receiving s t q ag) := ht
  exact ⟨_, hrun.trans (exec_rxEof_of_match ht' hfits hparse ⟨rfl, rfl⟩)⟩

end Sys2Proof.Machine
end

section
/-! PROOFS. The link controller's commands (R140 to R144) and its filter (R146), and what ends a wait (R147). -/

namespace Sys2Proof.Machine

/-! ### TRANSMIT (R140) -/

theorem exec_transmit (dest cmd : Byte) (payload : List Byte) (s : State) :
    exec (.transmit dest cmd payload) s = .next (transmitFrame config dest cmd payload s) := rfl

theorem transmitFrame_of_ok {cfg : Config} {dest cmd : Byte} {payload f : List Byte}
    (h : build cfg dest cmd payload = .ok f) (s : State) :
    transmitFrame cfg dest cmd payload s =
      respond { status := .ok, fields := len16 (stuff f).2 ++ len16 (stuff f).1.length }
        (emitTx ((stuff f).1 ++ [ackByte]) s) := by
  obtain ⟨_, herr, -⟩ | ⟨f', hok, ht⟩ := transmitFrame_cases cfg dest cmd payload s
  · cases h.symm.trans herr
  · cases h.symm.trans hok
    exact ht

theorem transmitFrame_of_error {cfg : Config} {dest cmd : Byte} {payload : List Byte} {e : Status}
    (h : build cfg dest cmd payload = .error e) (s : State) :
    transmitFrame cfg dest cmd payload s = respond (failResponse e) s := by
  obtain ⟨e', herr, ht⟩ | ⟨_, hok, -⟩ := transmitFrame_cases cfg dest cmd payload s
  · cases h.symm.trans herr
    exact ht
  · cases h.symm.trans hok

/-- Settles O33: by what `build` gives on either side of 247 bytes. -/
theorem transmitResult : Obligations.TransmitResult := by
  refine fun dest cmd P s => ⟨rfl, fun _ F W k hF hstuff => ?_, fun h => ?_⟩
  · rw [exec_transmit, transmitFrame_of_ok hF, hstuff]
    rfl
  · rw [exec_transmit, transmitFrame_of_error (build_of_gt config h)]
    rfl

/-! ### The commands of the wait (R142 to R144) -/

/-- Settles O35: the five writes are those of `armWait`, which reads no WSTATE. -/
theorem recvArmResult : Obligations.RecvArmResult := fun _ _ _ => ⟨rfl, rfl⟩

theorem exec_recvAbort_of_waiting {s : State} (h : s.wstate = .waiting) :
    exec .recvAbort s = .next (respond { status := .ok, fields := [] } (endWait .timeout none s)) :=
  if_pos h

theorem exec_recvAbort_of_not_waiting {s : State} (h : s.wstate ≠ .waiting) :
    exec .recvAbort s = .next (respond (failResponse .noWait) s) :=
  if_neg h

/-- Settles O36: by whether a wait is armed. -/
theorem recvAbortResult : Obligations.RecvAbortResult := fun _ =>
  ⟨rfl, exec_recvAbort_of_waiting, exec_recvAbort_of_not_waiting⟩

theorem exec_recvPoll {s : State} {r : Response} (h : pollResponse s = r) :
    exec .recvPoll s = .next (Claims.answered s r.bytes) :=
  h ▸ rfl

theorem pollResponse_of_failure {s : State} (hw : s.wstate = .done) (h : s.resStatus ≠ .ok) :
    pollResponse s = failResponse s.resStatus := by
  simp only [pollResponse, hw]
  split
  · exact absurd ‹s.resStatus = .ok› h
  · rfl

theorem pollResponse_of_message {s : State} {m : Message} (hw : s.wstate = .done) (hst : s.resStatus = .ok)
    (hm : s.resMsg = some m) : pollResponse s = { status := .ok, fields := messageFields m } := by
  rw [pollResponse, hw, hst, hm]

/-- Settles O37: by WSTATE, and in DONE by the held result. -/
theorem recvPollResult : Obligations.RecvPollResult := by
  refine fun s => ⟨rfl, fun hw => ?_, fun hw => ?_, fun hw hst => ?_, fun hw hst m hm => ?_⟩
  · exact exec_recvPoll (r := failResponse .noWait) (by rw [pollResponse, hw])
  · exact exec_recvPoll (r := failResponse .pending) (by rw [pollResponse, hw])
  · exact exec_recvPoll (pollResponse_of_failure hw hst)
  · exact exec_recvPoll (pollResponse_of_message hw hst hm)

/-- Settles O38: the filter is the conjunction of the three tests. -/
theorem filterMatches : Obligations.FilterMatches := by
  intro cfg m s
  simp only [matchesWait, Bool.and_eq_true, Bool.or_eq_true, Bool.not_eq_true', decide_eq_true_eq, and_assoc]

/-! ### What ends a wait (R147) -/

/-- Only RECV_ABORT and the completion of a frame take an armed wait out of WAITING: no other instruction writes WSTATE,
but for RECV_ARM, which leaves it WAITING. -/
theorem exec_ends_wait {i : Instr} {s t : State} (h : exec i s = .next t) (hw : s.wstate = .waiting)
    (ht : t.wstate ≠ .waiting) : i = .recvAbort ∨ i = .rxEof := by
  cases hi : i.isCommand with
  | true =>
    obtain ⟨_, rfl⟩ | ⟨_, _, _, _, -, -, rfl⟩ | ⟨_, _, -, rfl⟩ | ⟨hi', -, -⟩ := exec_command_cases hi h
    · exact absurd hw ht
    · exact absurd hw ht
    · exact absurd rfl ht
    · exact .inl hi'
  | false =>
    obtain ⟨-, rfl⟩ | ⟨-, rfl⟩ | ⟨b, -, rfl⟩ | ⟨hi', -, -⟩ := exec_receive_cases hi h
    · exact absurd hw ht
    · exact absurd hw ht
    · obtain ⟨-, hdata⟩ | ⟨-, hdata⟩ := asmData_cases config b s <;> rw [hdata] at ht <;> exact absurd hw ht
    · exact .inr hi'

/-- RECV_ABORT has one encoding (R79, R80). -/
theorem eq_of_decodeCommand_recvAbort {op : Byte} {rest : List Byte}
    (h : decodeCommand (op :: rest) = .ok .recvAbort) : op = 0x09#8 ∧ rest = [] := by
  obtain ⟨-, henc⟩ := encode_of_decodeCommand h
  cases henc
  exact ⟨rfl, rfl⟩

/-- EOF alone is the byte of its class (R75). -/
theorem eq_of_decodeByte_rxEof {b : Byte} (h : decodeByte b = .rxEof) : b = eofByte := by
  obtain ⟨-, henc⟩ := encode_decodeByte b
  rw [h] at henc
  cases henc
  rfl

/-- Settles O49: of the instructions that end a wait, RECV_ABORT comes from its command string and RX_EOF from its byte;
of the events that run none, only reset writes WSTATE. -/
theorem waitEndsOnlyBy : Obligations.WaitEndsOnlyBy := by
  intro s t hw h ht
  obtain ⟨-, rfl⟩ | ⟨e, ag, hag, hcase⟩ := step_next_cases h
  · exact absurd hw ht
  · refine ⟨e, ag, hag, ?_⟩
    obtain ⟨he, -⟩ | ⟨_, -, rfl⟩ | ⟨-, -, rfl⟩ | ⟨b, q, he, -, hq, hx⟩ | ⟨_, _, _, -, -, rfl⟩ |
      ⟨op, rest, i, he, hd, hx⟩ := hcase
    · exact .inl he
    · exact absurd hw ht
    · exact absurd hw ht
    · obtain habort | heof := exec_ends_wait hx hw ht
      · have hbyte := decodeByte_isCommand b
        rw [habort] at hbyte
        cases hbyte
      · rw [eq_of_decodeByte_rxEof heof] at hq
        exact .inr (.inr ⟨he, by rw [hq]; rfl⟩)
    · exact absurd hw ht
    · obtain rfl | rfl := exec_ends_wait hx hw ht
      · obtain ⟨rfl, rfl⟩ := eq_of_decodeCommand_recvAbort hd
        exact .inr (.inl he)
      · cases decodeCommand_isCommand hd

end Sys2Proof.Machine
end

section
/-! PROOFS. RECV_ABORT against a receive turn on the agenda (R143, R145, R157). -/

namespace Sys2Proof.Machine

/-! ### RECV_ABORT as a step (R143) -/

theorem step_recvAbort_of_waiting {s : State} {ag : List Event} (h : s.agenda = .host 0x09#8 [] :: ag)
    (hw : s.wstate = .waiting) :
    step s = .next (respond { status := .ok, fields := [] } (endWait .timeout none { s with agenda := ag })) :=
  (step_of_command h rfl).trans (exec_recvAbort_of_waiting (s := { s with agenda := ag }) hw)

theorem step_recvAbort_of_not_waiting {s : State} {ag : List Event} (h : s.agenda = .host 0x09#8 [] :: ag)
    (hw : s.wstate ≠ .waiting) : step s = .next (respond (failResponse .noWait) { s with agenda := ag }) :=
  (step_of_command h rfl).trans (exec_recvAbort_of_not_waiting (s := { s with agenda := ag }) hw)

/-! ### A receive turn as a step (R117, R118) -/

/-- Outside a wait the receive agent is not enabled, whatever RXQ holds (R118). -/
theorem receiveEnabled_of_not_waiting {s : State} (h : s.wstate ≠ .waiting) : receiveEnabled s = false := by
  rw [Bool.eq_false_iff, ne_eq, receiveEnabled_iff]
  exact fun ⟨hw, _⟩ => h hw

/-- A receive row schedules no event (log 1). -/
theorem exec_receive_agenda {i : Instr} {s t : State} (hi : i.isCommand = false) (h : exec i s = .next t) :
    t.agenda = s.agenda := by
  obtain ⟨-, rfl⟩ | ⟨-, rfl⟩ | ⟨b, -, rfl⟩ | ⟨-, -, hfc⟩ := exec_receive_cases hi h
  · rfl
  · rfl
  · obtain ⟨-, ht⟩ | ⟨-, ht⟩ := asmData_cases config b s <;> rw [ht]
  · obtain ⟨_, _, rfl⟩ | rfl := frameComplete_endWait_or_same hfc <;> rfl

/-- A receive turn, taken or skipped, uses up its own event and gives no response (R42, R117, R118). -/
theorem step_receive_frame {s t : State} {ag : List Event} (h : s.agenda = .receive :: ag) (ht : step s = .next t) :
    t.agenda = ag ∧ t.responses = s.responses := by
  cases he : receiveEnabled s with
  | false =>
    cases (step_of_receive_skipped h he).symm.trans ht
    exact ⟨rfl, rfl⟩
  | true =>
    obtain ⟨hw, b, q, hq⟩ := (receiveEnabled_iff s).mp he
    have hx := (step_of_receive_taken h hw hq).symm.trans ht
    obtain ⟨-, -, hresp⟩ := exec_receive_streams (decodeByte_isCommand b) hx
    exact ⟨exec_receive_agenda (decodeByte_isCommand b) hx, hresp⟩

/-! ### The two orders (R157) -/

/-- An abort of an armed wait, then a receive turn: the turn finds no wait and takes nothing from RXQ. -/
theorem run_recvAbort_receive {s : State} {ag : List Event} (h : s.agenda = .host 0x09#8 [] :: .receive :: ag)
    (hw : s.wstate = .waiting) :
    Sys2Proof.core.run 2 s =
      .next (respond { status := .ok, fields := [] } (endWait .timeout none { s with agenda := ag })) := by
  rw [run_succ_of_step (step_recvAbort_of_waiting h hw), run_one]
  exact step_of_receive_skipped rfl (receiveEnabled_of_not_waiting (by simp))

/-- A receive turn that ends in DONE, then an abort: the abort finds no wait and only answers so. -/
theorem run_receive_recvAbort {s t : State} {ag : List Event} (h : s.agenda = .receive :: .host 0x09#8 [] :: ag)
    (ht : step s = .next t) (hdone : t.wstate = .done) :
    Sys2Proof.core.run 2 s = .next { t with agenda := ag, responses := s.responses ++ [[0x0B#8]] } := by
  obtain ⟨hag, hresp⟩ := step_receive_frame h ht
  have hw : t.wstate ≠ .waiting := by simp [hdone]
  rw [run_succ_of_step ht, run_one, step_recvAbort_of_not_waiting hag hw, ← hresp]
  rfl

/-- Settles O50: by which of the two comes first. -/
theorem abortAndFrameRace : Obligations.AbortAndFrameRace :=
  fun _ _ _ hw _ => ⟨fun h => run_recvAbort_receive h hw, fun h _ ht hdone => run_receive_recvAbort h ht hdone⟩

end Sys2Proof.Machine
end

section
/-! PROOFS. The reset event as a step (R169). -/

namespace Sys2Proof.Machine

/-- Settles O9: `resetEvent` runs on the state past the event, and its record update names the eight elements it writes;
what it leaves, RXBUF and the responses among them, it does not name (log 16). -/
theorem resetEventWrites : Obligations.ResetEventWrites :=
  fun _ _ hag => step_of_reset hag

end Sys2Proof.Machine
end
